-- ==== Sys2Proof/Word.lean ====
section
/-! DEFINITION. The word types of the block: a register's byte and the 18-bit operation word
(spec/10_state.md R20, spec/30_encoding.md R71). -/

namespace Sys2Proof

/-- A register's content, and the index and value a host operation carries: 8 bits (R20, R50). -/
abbrev Byte := BitVec 8

/-- One operation as a word: `tag[17:16] idx[15:8] val[7:0]` (R71). -/
abbrev OpWord := BitVec 18

end Sys2Proof
end

