-- ==== Sys2Proof/Operation.lean ====
section
/-! DEFINITION. The four operations as abstract syntax, and the two agents that issue them
(spec/30_encoding.md R70, spec/20_memory.md R57). -/

namespace Sys2Proof

/-- The abstract syntax of R70, one constructor for each operation. -/
inductive Op where
  /-- `WR(i, v)`: write value v to register index i. -/
  | wr (idx val : Byte)
  /-- `RD(i)`: read register index i, returning 8 bits. -/
  | rd (idx : Byte)
  /-- `TICK`: advance every generator by one generator tick. -/
  | tick
  /-- `RESET`: put all state to its reset value. -/
  | reset
deriving DecidableEq, Repr

/-- Who acts on the block (R57). -/
inductive Agent where
  | host
  | tickSource
deriving DecidableEq, Repr

end Sys2Proof
end

