-- ==== Sys2Proof/Syntax.lean ====
section
/-! DEFINITION. The instructions: one constructor for each row of spec/opcode_table.json, in the table's order
(spec/30_encoding.md R88). -/

namespace Sys2Proof

/-- One operation of the block, by its opcode-table row. The bits R71 calls ignored are not part of an
instruction. `wrOor` and `rdOor` carry an index above 15 (WellFormed.lean). -/
inductive Instr where
  | wrR0 (val : Byte)
  | wrR1 (val : Byte)
  | wrR2 (val : Byte)
  | wrR3 (val : Byte)
  | wrR4 (val : Byte)
  | wrR5 (val : Byte)
  | wrR6 (val : Byte)
  | wrR7 (val : Byte)
  | wrR8 (val : Byte)
  | wrR9 (val : Byte)
  | wrR10 (val : Byte)
  | wrR11 (val : Byte)
  | wrR12 (val : Byte)
  | wrR13 (val : Byte)
  | wrR14 (val : Byte)
  | wrR15 (val : Byte)
  | wrOor (idx val : Byte)
  | rdR0
  | rdR1
  | rdR2
  | rdR3
  | rdR4
  | rdR5
  | rdR6
  | rdR7
  | rdR8
  | rdR9
  | rdR10
  | rdR11
  | rdR12
  | rdR13
  | rdR14
  | rdR15
  | rdOor (idx : Byte)
  | tick
  | reset
deriving DecidableEq, Repr

end Sys2Proof
end

