-- ==== Sys2Proof/WellFormed.lean ====
section
/-! DEFINITION. Which instruction terms an operation word can stand for: the out-of-range rows carry an index
with `idx[7:4] != 0` (spec/30_encoding.md R74, spec/40_register_ops.md R118, R122). -/

namespace Sys2Proof

/-- An index that addresses no register: above 15 (R50). -/
def outOfRange (idx : Byte) : Bool := decide (15 < idx.toNat)

/-- The check: `WR.OOR` and `RD.OOR` carry an index above 15; every other term is well formed. -/
def Instr.wellFormed : Instr → Bool
  | .wrOor idx _ => outOfRange idx
  | .rdOor idx => outOfRange idx
  | .wrR0 _ | .wrR1 _ | .wrR2 _ | .wrR3 _ | .wrR4 _ | .wrR5 _ | .wrR6 _ | .wrR7 _
  | .wrR8 _ | .wrR9 _ | .wrR10 _ | .wrR11 _ | .wrR12 _ | .wrR13 _ | .wrR14 _ | .wrR15 _
  | .rdR0 | .rdR1 | .rdR2 | .rdR3 | .rdR4 | .rdR5 | .rdR6 | .rdR7
  | .rdR8 | .rdR9 | .rdR10 | .rdR11 | .rdR12 | .rdR13 | .rdR14 | .rdR15
  | .tick | .reset => true

end Sys2Proof
end

