-- ==== Sys2Proof/Decode.lean ====
section
/-! DEFINITION. From operation words to instructions and back (spec/30_encoding.md R70 to R74, R88): the
decoder, total on 18-bit words and rejecting anything longer by name; the encoder; and the opcode table with
the first-match reading of R74, which the decoder is to agree with. -/

namespace Sys2Proof

/-! ### Fields of the word (R71) -/

/-- `tag = op[17:16]`, the format. -/
def OpWord.tag (w : OpWord) : BitVec 2 := w.extractLsb' 16 2

/-- `idx = op[15:8]`, the register index of formats W and R. -/
def OpWord.idx (w : OpWord) : Byte := w.extractLsb' 8 8

/-- `val = op[7:0]`, the value of format W. -/
def OpWord.val (w : OpWord) : Byte := w.extractLsb' 0 8

/-- `{tag, idx, val}` (R71). -/
def OpWord.ofFields (tag : BitVec 2) (idx val : Byte) : OpWord := tag ++ idx ++ val

/-- Format W: 0b00. -/
def tagW : BitVec 2 := 0b00#2
/-- Format R: 0b01. -/
def tagR : BitVec 2 := 0b01#2
/-- Format T: 0b10. -/
def tagT : BitVec 2 := 0b10#2
/-- Format Z: 0b11. -/
def tagZ : BitVec 2 := 0b11#2

/-! ### Abstract operations and table rows (R70, R74, R88) -/

/-- The row of a register write: the register `idx[3:0]` where `idx[7:4] = 0`, else the out-of-range row (R74). -/
def Instr.ofWrite (idx val : Byte) : Instr :=
  match idx.toNat with
  | 0 => .wrR0 val
  | 1 => .wrR1 val
  | 2 => .wrR2 val
  | 3 => .wrR3 val
  | 4 => .wrR4 val
  | 5 => .wrR5 val
  | 6 => .wrR6 val
  | 7 => .wrR7 val
  | 8 => .wrR8 val
  | 9 => .wrR9 val
  | 10 => .wrR10 val
  | 11 => .wrR11 val
  | 12 => .wrR12 val
  | 13 => .wrR13 val
  | 14 => .wrR14 val
  | 15 => .wrR15 val
  | _ => .wrOor idx val

/-- The row of a register read (R74). -/
def Instr.ofRead (idx : Byte) : Instr :=
  match idx.toNat with
  | 0 => .rdR0
  | 1 => .rdR1
  | 2 => .rdR2
  | 3 => .rdR3
  | 4 => .rdR4
  | 5 => .rdR5
  | 6 => .rdR6
  | 7 => .rdR7
  | 8 => .rdR8
  | 9 => .rdR9
  | 10 => .rdR10
  | 11 => .rdR11
  | 12 => .rdR12
  | 13 => .rdR13
  | 14 => .rdR14
  | 15 => .rdR15
  | _ => .rdOor idx

/-- The instruction that an abstract operation is. -/
def Op.toInstr : Op → Instr
  | .wr idx val => Instr.ofWrite idx val
  | .rd idx => Instr.ofRead idx
  | .tick => .tick
  | .reset => .reset

/-- The abstract operation of R70 that an instruction is. -/
def Instr.toOp : Instr → Op
  | .wrR0 val => .wr 0 val
  | .wrR1 val => .wr 1 val
  | .wrR2 val => .wr 2 val
  | .wrR3 val => .wr 3 val
  | .wrR4 val => .wr 4 val
  | .wrR5 val => .wr 5 val
  | .wrR6 val => .wr 6 val
  | .wrR7 val => .wr 7 val
  | .wrR8 val => .wr 8 val
  | .wrR9 val => .wr 9 val
  | .wrR10 val => .wr 10 val
  | .wrR11 val => .wr 11 val
  | .wrR12 val => .wr 12 val
  | .wrR13 val => .wr 13 val
  | .wrR14 val => .wr 14 val
  | .wrR15 val => .wr 15 val
  | .wrOor idx val => .wr idx val
  | .rdR0 => .rd 0
  | .rdR1 => .rd 1
  | .rdR2 => .rd 2
  | .rdR3 => .rd 3
  | .rdR4 => .rd 4
  | .rdR5 => .rd 5
  | .rdR6 => .rd 6
  | .rdR7 => .rd 7
  | .rdR8 => .rd 8
  | .rdR9 => .rd 9
  | .rdR10 => .rd 10
  | .rdR11 => .rd 11
  | .rdR12 => .rd 12
  | .rdR13 => .rd 13
  | .rdR14 => .rd 14
  | .rdR15 => .rd 15
  | .rdOor idx => .rd idx
  | .tick => .tick
  | .reset => .reset

/-- The agent that issues an operation: `WR`, `RD` and `RESET` come from the host, `TICK` from the tick source (R57). -/
def Op.agent : Op → Agent
  | .wr _ _ => .host
  | .rd _ => .host
  | .reset => .host
  | .tick => .tickSource

/-! ### The decoder (R71, R74) -/

/-- The abstract operation of a word: `tag` selects the format, ignored bits do not matter (R71). -/
def decodeOp (w : OpWord) : Op :=
  if w.tag = tagW then .wr w.idx w.val
  else if w.tag = tagR then .rd w.idx
  else if w.tag = tagT then .tick
  else .reset

/-- Decoding is total: every 18-bit word is exactly one operation, none is illegal (R74). -/
def decode (w : OpWord) : Instr := (decodeOp w).toInstr

/-- Why a number is no operation word. -/
inductive DecodeError where
  /-- Some bit above bit 17 is set: an operation word has 18 bits (R71). Safe: such a number is no operation. -/
  | tooWide
deriving DecidableEq, Repr

/-- Decode any number: below 2^18 it is an operation word, above it is rejected by name (log 6). -/
def decodeNat (w : Nat) : Except DecodeError Instr :=
  if w < 2 ^ 18 then .ok (decode (BitVec.ofNat 18 w)) else .error .tooWide

/-- The host's question: the instruction whose bits, numbered as the opcode table numbers them, are w; only the
nbits bits the host gives count, the rest are 0. -/
def decodeTableWord (nbits w : Nat) : Option Instr :=
  match decodeNat (w % 2 ^ nbits) with
  | .ok i => some i
  | .error _ => none

/-! ### The encoder (R71, R86): ignored bits are written as 0 -/

/-- The word of an abstract operation (R71, R86). -/
def encodeOp : Op → OpWord
  | .wr idx val => OpWord.ofFields tagW idx val
  | .rd idx => OpWord.ofFields tagR idx 0
  | .tick => OpWord.ofFields tagT 0 0
  | .reset => OpWord.ofFields tagZ 0 0

/-- The word of an instruction. -/
def encode (i : Instr) : OpWord := encodeOp i.toOp

/-! ### The opcode table (R88) and the first-match decoder of R74 -/

/-- A row of the opcode table: a word belongs to it where `(word & mask) == pattern`, and then stands for `make word`. -/
structure OpcodeRow where
  mnemonic : String
  pattern : OpWord
  mask : OpWord
  make : OpWord → Instr

/-- Rows `WR.R0` to `WR.R15`, then `WR.OOR`. -/
def writeRows : List OpcodeRow :=
  [ ⟨"WR.R0", 0x00000, 0x3FF00, fun w => .wrR0 w.val⟩,
    ⟨"WR.R1", 0x00100, 0x3FF00, fun w => .wrR1 w.val⟩,
    ⟨"WR.R2", 0x00200, 0x3FF00, fun w => .wrR2 w.val⟩,
    ⟨"WR.R3", 0x00300, 0x3FF00, fun w => .wrR3 w.val⟩,
    ⟨"WR.R4", 0x00400, 0x3FF00, fun w => .wrR4 w.val⟩,
    ⟨"WR.R5", 0x00500, 0x3FF00, fun w => .wrR5 w.val⟩,
    ⟨"WR.R6", 0x00600, 0x3FF00, fun w => .wrR6 w.val⟩,
    ⟨"WR.R7", 0x00700, 0x3FF00, fun w => .wrR7 w.val⟩,
    ⟨"WR.R8", 0x00800, 0x3FF00, fun w => .wrR8 w.val⟩,
    ⟨"WR.R9", 0x00900, 0x3FF00, fun w => .wrR9 w.val⟩,
    ⟨"WR.R10", 0x00A00, 0x3FF00, fun w => .wrR10 w.val⟩,
    ⟨"WR.R11", 0x00B00, 0x3FF00, fun w => .wrR11 w.val⟩,
    ⟨"WR.R12", 0x00C00, 0x3FF00, fun w => .wrR12 w.val⟩,
    ⟨"WR.R13", 0x00D00, 0x3FF00, fun w => .wrR13 w.val⟩,
    ⟨"WR.R14", 0x00E00, 0x3FF00, fun w => .wrR14 w.val⟩,
    ⟨"WR.R15", 0x00F00, 0x3FF00, fun w => .wrR15 w.val⟩,
    ⟨"WR.OOR", 0x00000, 0x30000, fun w => .wrOor w.idx w.val⟩ ]

/-- Rows `RD.R0` to `RD.R15`, then `RD.OOR`. -/
def readRows : List OpcodeRow :=
  [ ⟨"RD.R0", 0x10000, 0x3FF00, fun _ => .rdR0⟩,
    ⟨"RD.R1", 0x10100, 0x3FF00, fun _ => .rdR1⟩,
    ⟨"RD.R2", 0x10200, 0x3FF00, fun _ => .rdR2⟩,
    ⟨"RD.R3", 0x10300, 0x3FF00, fun _ => .rdR3⟩,
    ⟨"RD.R4", 0x10400, 0x3FF00, fun _ => .rdR4⟩,
    ⟨"RD.R5", 0x10500, 0x3FF00, fun _ => .rdR5⟩,
    ⟨"RD.R6", 0x10600, 0x3FF00, fun _ => .rdR6⟩,
    ⟨"RD.R7", 0x10700, 0x3FF00, fun _ => .rdR7⟩,
    ⟨"RD.R8", 0x10800, 0x3FF00, fun _ => .rdR8⟩,
    ⟨"RD.R9", 0x10900, 0x3FF00, fun _ => .rdR9⟩,
    ⟨"RD.R10", 0x10A00, 0x3FF00, fun _ => .rdR10⟩,
    ⟨"RD.R11", 0x10B00, 0x3FF00, fun _ => .rdR11⟩,
    ⟨"RD.R12", 0x10C00, 0x3FF00, fun _ => .rdR12⟩,
    ⟨"RD.R13", 0x10D00, 0x3FF00, fun _ => .rdR13⟩,
    ⟨"RD.R14", 0x10E00, 0x3FF00, fun _ => .rdR14⟩,
    ⟨"RD.R15", 0x10F00, 0x3FF00, fun _ => .rdR15⟩,
    ⟨"RD.OOR", 0x10000, 0x30000, fun w => .rdOor w.idx⟩ ]

/-- Rows `TICK` and `RESET`. -/
def timeRows : List OpcodeRow :=
  [ ⟨"TICK", 0x20000, 0x30000, fun _ => .tick⟩,
    ⟨"RESET", 0x30000, 0x30000, fun _ => .reset⟩ ]

/-- The opcode table, in the listed order (R88). -/
def opcodeTable : List OpcodeRow := writeRows ++ (readRows ++ timeRows)

/-- Whether a word belongs to a row (R74). -/
def OpcodeRow.accepts (r : OpcodeRow) (w : OpWord) : Bool := w &&& r.mask == r.pattern

/-- The row that a word takes: the first one that accepts it (R74). -/
def firstRow (w : OpWord) : Option OpcodeRow := opcodeTable.find? fun r => r.accepts w

/-- The number of the row of opcodeTable that an instruction stands for. -/
def Instr.rowNumber : Instr → Nat
  | .wrR0 _ => 0
  | .wrR1 _ => 1
  | .wrR2 _ => 2
  | .wrR3 _ => 3
  | .wrR4 _ => 4
  | .wrR5 _ => 5
  | .wrR6 _ => 6
  | .wrR7 _ => 7
  | .wrR8 _ => 8
  | .wrR9 _ => 9
  | .wrR10 _ => 10
  | .wrR11 _ => 11
  | .wrR12 _ => 12
  | .wrR13 _ => 13
  | .wrR14 _ => 14
  | .wrR15 _ => 15
  | .wrOor _ _ => 16
  | .rdR0 => 17
  | .rdR1 => 18
  | .rdR2 => 19
  | .rdR3 => 20
  | .rdR4 => 21
  | .rdR5 => 22
  | .rdR6 => 23
  | .rdR7 => 24
  | .rdR8 => 25
  | .rdR9 => 26
  | .rdR10 => 27
  | .rdR11 => 28
  | .rdR12 => 29
  | .rdR13 => 30
  | .rdR14 => 31
  | .rdR15 => 32
  | .rdOor _ => 33
  | .tick => 34
  | .reset => 35

end Sys2Proof
end

