-- ==== Sys2Proof/Config.lean ====
section
/-! DEFINITION. What is fixed for one block but left open by the spec: the volume table and the mixer-bit
polarity (spec/00_scope.md R7, spec/44_mixer_dac.md R176), and the free byte of an out-of-range read
(spec/40_register_ops.md R122). -/

namespace Sys2Proof

/-- The configuration of a block, an argument of everything that computes an output. It is not state (R7) and no
operation reads it, so a claim about outputs holds for every table and for the polarity it names (log 7). -/
structure Config where
  /-- `VOLTAB`: a level 0..15 to an amplitude code (R176). -/
  voltab : Fin 16 → Nat
  /-- The one property of `VOLTAB` that may be used: it is monotonic non-decreasing (R176). -/
  voltab_mono : ∀ i j : Fin 16, i ≤ j → voltab i ≤ voltab j
  /-- `MIXER_ACTIVE_LOW`: a 1 in a mixer bit disables (true, the default) or enables (false) its input (R7, R29). -/
  mixerActiveLow : Bool := true

/-- The identity table of R177 (a), with the default polarity: for reading examples only. -/
def Config.identity : Config where
  voltab i := i.val
  voltab_mono _ _ h := h

/-- FREE VALUE: the byte that the n-th read of an index above 15 returns (R122, U5; log 4). It has no body, so
nothing can be proved of its value. -/
opaque Config.freeByte : Nat → Byte

end Sys2Proof
end

