-- ==== Sys2Proof/Machine/Params.lean ====
section
/-! DEFINITION. The constants of the block as named definitions, so that a later audit of the source's numbers
changes one definition (spec/93_implementation_defined.md U4): the register map (spec/10_state.md R21) and the
parameters of spec/00_scope.md R5, R6. -/

namespace Sys2Proof.Machine

/-! ### The register map (R21) -/

/-- `R[6]`, `N_Period`. -/
def regNoisePeriod : Fin 16 := 6
/-- `R[7]`, `Mixer`. -/
def regMixer : Fin 16 := 7
/-- `R[11]`, `E_PeriodL`. -/
def regEnvPeriodL : Fin 16 := 11
/-- `R[12]`, `E_PeriodH`. -/
def regEnvPeriodH : Fin 16 := 12
/-- `R[13]`, `E_Shape`. -/
def regEnvShape : Fin 16 := 13
/-- `R[14]`, `PortA`: storage only. -/
def regPortA : Fin 16 := 14
/-- `R[15]`, `PortB`: storage only. -/
def regPortB : Fin 16 := 15

/-- `R[2c]`, the low half of the tone period of channel c: `A_PeriodL`, `B_PeriodL`, `C_PeriodL`. -/
def regTonePeriodL (c : Fin 3) : Fin 16 := ⟨2 * c.val, by omega⟩
/-- `R[2c+1]`, the high half of the tone period of channel c: `A_PeriodH`, `B_PeriodH`, `C_PeriodH`. -/
def regTonePeriodH (c : Fin 3) : Fin 16 := ⟨2 * c.val + 1, by omega⟩
/-- `R[8+c]`, the volume register of channel c: `A_Volume`, `B_Volume`, `C_Volume`. -/
def regVolume (c : Fin 3) : Fin 16 := ⟨8 + c.val, by omega⟩

/-! ### Fixed parameters (R5, R6) -/

/-- `NOISE_STEP_MUL`: generator ticks per noise period unit (R6, R161). -/
def noiseStepMul : Nat := 2
/-- `ENV_STEP_MUL`: generator ticks per envelope period unit (R6, R145). -/
def envStepMul : Nat := 2
/-- `NOISE_SEED`: the shift register's reset value (R6, R46). -/
def noiseSeed : BitVec 17 := 0x1FFFF
/-- The first feedback tap of the shift register (R5, R163). -/
def lfsrTapA : Nat := 0
/-- The second feedback tap of the shift register (R5, R163). -/
def lfsrTapB : Nat := 3
/-- The bit of the shift register that is the noise output (R5, R165). -/
def lfsrOutputBit : Nat := 0
/-- The highest of the `ENV_LEVELS` = 16 envelope levels (R6, R144). -/
def topLevel : BitVec 4 := 15
/-- `DUTY50`, the fixed 50 % duty table of the legacy chip: low at even phases, high at odd ones (R133). -/
def duty50 : BitVec 32 := 0xAAAAAAAA

end Sys2Proof.Machine
end

