-- ==== Sys2Proof/Machine/State.lean ====
section
/-! DEFINITION. The state of the block as plain data (spec/10_state.md R20, R38 to R41), the interface fields the
model adds, the reset state (R46), and the two reason types of an outcome. -/

namespace Sys2Proof.Machine

/-- One tone generator (R38). -/
structure Tone where
  /-- `tone_cnt[c]`, the period counter. -/
  cnt : BitVec 12
  /-- `tone_phase[c]`, the duty-cycle phase counter, 0..31. -/
  phase : BitVec 5
deriving DecidableEq, Repr

/-- The noise generator (R39). -/
structure Noise where
  /-- `noise_cnt`, the period counter. -/
  cnt : BitVec 6
  /-- `lfsr`, the 17-bit shift register. -/
  lfsr : BitVec 17
deriving DecidableEq, Repr

/-- The envelope generator: counters (R40) and the four flags (R41). -/
structure Envelope where
  /-- `env_cnt`, the period counter. -/
  cnt : BitVec 17
  /-- `env_level`, the level the envelope outputs. -/
  level : BitVec 4
  /-- `env_up`: the level steps by +1 (true) or -1 (false). -/
  up : Bool
  /-- `env_hold`, the hold bit of the normalised shape. -/
  hold : Bool
  /-- `env_alt`, the alternate bit of the normalised shape. -/
  alt : Bool
  /-- `env_holding`: the envelope has reached its final level and stopped. -/
  holding : Bool
deriving DecidableEq, Repr

/-- Everything the spec gives the block (R20, R38 to R41); the mixer and the DAC stage hold no state (R43). -/
structure Block where
  /-- `R[0]` to `R[15]`, all 8 bits stored (R20). -/
  regs : Vector Byte 16
  /-- The tone generators of channels A, B, C. -/
  tone : Vector Tone 3
  noise : Noise
  env : Envelope
deriving DecidableEq, Repr

/-- The block together with its interface to the two agents. The last three fields are the model's own. -/
structure State where
  block : Block
  /-- The operation words still to come, in the one total order of R58: the first is next (log 1). -/
  pending : List OpWord
  /-- What the operation just executed returned to the host: a byte for a read (R120, R122), nothing otherwise (log 3). -/
  reply : Option Byte
  /-- How many free bytes out-of-range reads have drawn (R122, log 4). -/
  draws : Nat
deriving DecidableEq, Repr

/-- The table of R46. -/
def Block.reset : Block where
  regs := Vector.replicate 16 0x00
  tone := Vector.replicate 3 ⟨0, 0⟩
  noise := { cnt := 0, lfsr := noiseSeed }
  env := { cnt := 0, level := 15, up := false, hold := true, alt := false, holding := false }

/-- Power-on (R220 (a)): the block in its reset state, nothing pending, nothing returned yet, no byte drawn (log 5). -/
def State.reset : State where
  block := Block.reset
  pending := []
  reply := none
  draws := 0

/-- Faults: none. "No operation faults, traps, aborts, stalls, is refused or has undefined behaviour" (R200), so the
type has no constructor and nothing can raise one (log 8). -/
inductive Fault where
deriving DecidableEq, Repr

/-- Refusals. -/
inductive Refusal where
  /-- An instruction without a meaning, named by its mnemonic; raised by no arm of exec, since every instruction
  has its meaning. Safe: the model would stop where the block goes on. -/
  | notModelled (mnemonic : String)
deriving DecidableEq, Repr

end Sys2Proof.Machine
end

