-- ==== Sys2Proof/Machine/Operands.lean ====
section
/-! DEFINITION. The operands cut out of the register file at use (spec/30_encoding.md R76 to R78, spec/00_scope.md
R11), and the effective periods of the generators (R131, R145, R161). Nothing is signed or scaled. -/

namespace Sys2Proof.Machine

/-- `TP(c) = {R[2c+1][3:0], R[2c]}`, the 12-bit tone period; bits 7:4 of the high register are ignored (R76). -/
def Block.tonePeriod (b : Block) (c : Fin 3) : BitVec 12 :=
  (b.regs[regTonePeriodH c]).extractLsb' 0 4 ++ b.regs[regTonePeriodL c]

/-- `NP = R[6][4:0]`, the noise period (R28, R76). -/
def Block.noisePeriod (b : Block) : BitVec 5 := (b.regs[regNoisePeriod]).extractLsb' 0 5

/-- `EP = {R[12], R[11]}`, the 16-bit envelope period (R33, R34, R76). -/
def Block.envPeriod (b : Block) : BitVec 16 := b.regs[regEnvPeriodH] ++ b.regs[regEnvPeriodL]

/-- `TONE_OFF(c) = R[7][c]` (R11, R29). -/
def Block.toneOff (b : Block) (c : Fin 3) : Bool := (b.regs[regMixer]).getLsbD c.val

/-- `NOISE_OFF(c) = R[7][3+c]` (R11, R29). -/
def Block.noiseOff (b : Block) (c : Fin 3) : Bool := (b.regs[regMixer]).getLsbD (3 + c.val)

/-- `M(c) = R[8+c][4]`, envelope select (R30, R78). -/
def Block.envSelect (b : Block) (c : Fin 3) : Bool := (b.regs[regVolume c]).getLsbD 4

/-- `LVL(c) = R[8+c][3:0]`, the fixed level (R30, R78). -/
def Block.fixedLevel (b : Block) (c : Fin 3) : BitVec 4 := (b.regs[regVolume c]).extractLsb' 0 4

/-- `SHAPE`, bits 3:0 of the byte written to `R[13]` (R35, R84). -/
def shapeOf (v : Byte) : BitVec 4 := v.extractLsb' 0 4

/-- `TPeff = max(1, TP)`: a period of 0 acts as 1 (R131). -/
def effTonePeriod (tp : BitVec 12) : Nat := max 1 tp.toNat

/-- `NPeff = NOISE_STEP_MUL x max(1, NP)` ticks per shift (R161). -/
def effNoisePeriod (np : BitVec 5) : Nat := noiseStepMul * max 1 np.toNat

/-- `EPeff = ENV_STEP_MUL x max(1, EP)` ticks per envelope step (R145). -/
def effEnvPeriod (ep : BitVec 16) : Nat := envStepMul * max 1 ep.toNat

end Sys2Proof.Machine
end

