-- ==== Sys2Proof/Machine/Flags.lean ====
section
/-! DEFINITION. The envelope flags, the only flags of the block (spec/10_state.md R41), and the level they steer:
normalisation of the shape (spec/42_envelope.md R141), the load (R142) and one envelope step (R147). -/

namespace Sys2Proof.Machine

/-- `cont`, bit 3 of the shape (R79). -/
def shapeCont (v : Byte) : Bool := (shapeOf v).getLsbD 3
/-- `att`, bit 2 of the shape (R79). -/
def shapeAtt (v : Byte) : Bool := (shapeOf v).getLsbD 2
/-- `alt`, bit 1 of the shape (R79). -/
def shapeAlt (v : Byte) : Bool := (shapeOf v).getLsbD 1
/-- `hold`, bit 0 of the shape (R79). -/
def shapeHold (v : Byte) : Bool := (shapeOf v).getLsbD 0

/-- `n_att`, the attack bit of the normalised shape (R141). -/
def normAtt (v : Byte) : Bool := shapeAtt v
/-- `n_alt`, the alternate bit of the normalised shape: the attack bit where continue is 0 (R141). -/
def normAlt (v : Byte) : Bool := if shapeCont v then shapeAlt v else shapeAtt v
/-- `n_hold`, the hold bit of the normalised shape: 1 where continue is 0 (R141). -/
def normHold (v : Byte) : Bool := if shapeCont v then shapeHold v else true

/-- The normalised shape `{1, n_att, n_alt, n_hold}` (R141, R80). -/
def normShape (v : Byte) : BitVec 4 :=
  BitVec.ofBool true ++ BitVec.ofBool (normAtt v) ++ BitVec.ofBool (normAlt v) ++ BitVec.ofBool (normHold v)

/-- `EnvLoad(v)`: the generator state it leaves, whatever the state before (R142). -/
def Envelope.load (v : Byte) : Envelope where
  hold := normHold v
  alt := normAlt v
  up := normAtt v
  level := if normAtt v then 0 else topLevel
  holding := false
  cnt := 0

/-- The saturating step, at which the ramp is complete: clamp, invert the direction, or restart (R147, R149). -/
def Envelope.saturate (e : Envelope) : Envelope :=
  if e.hold then { e with holding := true, level := if e.alt then topLevel - e.level else e.level }
  else if e.alt then { e with up := !e.up }
  else { e with level := if e.up then 0 else topLevel }

/-- `EnvStep()`, one envelope step (R147). -/
def Envelope.levelStep (e : Envelope) : Envelope :=
  if e.holding then e
  else if e.up && decide (e.level < topLevel) then { e with level := e.level + 1 }
  else if !e.up && decide (0 < e.level) then { e with level := e.level - 1 }
  else e.saturate

end Sys2Proof.Machine
end

