-- ==== Sys2Proof/Machine/Ops.lean ====
section
/-! DEFINITION. The named operations every meaning is made of: reading and writing a register
(spec/40_register_ops.md), the generator steps (spec/41_tone.md R132, spec/43_noise.md R162, R163,
spec/42_envelope.md R146), the tick and the reset of the block (spec/45_tick_reset.md R186, R190), and what an
operation returns. The block takes no exception and returns from none (spec/60_exceptions.md R200, R205, R206),
so there is no such operation. -/

namespace Sys2Proof.Machine

/-! ### The register file -/

/-- `R[i]` (R10, R120). -/
def Block.read (b : Block) (i : Fin 16) : Byte := b.regs[i]

/-- `R[i] <- v`, all 8 bits (R10, R101). -/
def Block.store (b : Block) (i : Fin 16) (v : Byte) : Block := { b with regs := b.regs.set i v }

/-- `EnvLoad(v)` (R142). -/
def Block.loadEnvelope (b : Block) (v : Byte) : Block := { b with env := Envelope.load v }

/-! ### Generator steps: count up from 0, compare after the increment, return to 0 at expiry -/

/-- The step of a tone generator under the period tp (R132). -/
def Tone.step (tp : BitVec 12) (t : Tone) : Tone :=
  let n := t.cnt.toNat + 1
  if n ≥ effTonePeriod tp then { cnt := 0, phase := BitVec.ofNat 5 ((t.phase.toNat + 1) % 32) }
  else { t with cnt := BitVec.ofNat 12 n }

/-- `LfsrNext(x) = {fb, x[16:1]}` with `fb = x[0] ^ x[3]` (R163). -/
def lfsrNext (x : BitVec 17) : BitVec 17 :=
  BitVec.ofBool (x.getLsbD lfsrTapA ^^ x.getLsbD lfsrTapB) ++ x.extractLsb' 1 16

/-- The step of the noise generator under the period np (R162). -/
def Noise.step (np : BitVec 5) (g : Noise) : Noise :=
  let n := g.cnt.toNat + 1
  if n ≥ effNoisePeriod np then { cnt := 0, lfsr := lfsrNext g.lfsr }
  else { g with cnt := BitVec.ofNat 6 n }

/-- The step of the envelope generator under the period ep (R146): at expiry the counter is cleared, then `EnvStep`. -/
def Envelope.step (ep : BitVec 16) (e : Envelope) : Envelope :=
  let n := e.cnt.toNat + 1
  if n ≥ effEnvPeriod ep then ({ e with cnt := 0 } : Envelope).levelStep
  else { e with cnt := BitVec.ofNat 17 n }

/-- The five generator steps of a tick (R186). -/
inductive GenStep where
  | tone (c : Fin 3)
  | noise
  | env
deriving DecidableEq, Repr

/-- One generator step on the block, reading the period from the register file as it stands. -/
def Block.genStep (b : Block) : GenStep → Block
  | .tone c => { b with tone := b.tone.set c ((b.tone[c]).step (b.tonePeriod c)) }
  | .noise => { b with noise := b.noise.step b.noisePeriod }
  | .env => { b with env := b.env.step b.envPeriod }

/-- The order of R186; R187 says it is immaterial. -/
def tickOrder : List GenStep := [.tone 0, .tone 1, .tone 2, .noise, .env]

/-- `TICK` on the block (R186). -/
def Block.tick (b : Block) : Block := tickOrder.foldl Block.genStep b

/-- `RESET` on the block (R190): the pseudocode's assignments and `EnvLoad(0)`. -/
def Block.resetAll (b : Block) : Block :=
  ({ b with
      regs := Vector.replicate 16 0
      tone := Vector.replicate 3 ⟨0, 0⟩
      noise := { cnt := 0, lfsr := noiseSeed } } : Block).loadEnvelope 0

/-! ### What an operation does to the whole state -/

/-- An operation that returns nothing to the host and does f to the block (R100, R186). -/
def State.act (f : Block → Block) (s : State) : State := { s with block := f s.block, reply := none }

/-- `R[i] <- v` by a host write (R101). -/
def State.writeReg (i : Fin 16) (v : Byte) (s : State) : State := s.act fun b => b.store i v

/-- `R[13] <- v; EnvLoad(v)` (R115). -/
def State.writeShape (v : Byte) (s : State) : State := s.act fun b => (b.store regEnvShape v).loadEnvelope v

/-- A write to an index above 15: dropped silently (R118). -/
def State.dropWrite (s : State) : State := s.act id

/-- `return R[i]`; no state of the block is written (R120). -/
def State.readReg (i : Fin 16) (s : State) : State := { s with reply := some (s.block.read i) }

/-- `return any 8-bit value`: a fresh free byte; no state of the block is written (R122, log 4). -/
def State.readFree (s : State) : State := { s with reply := some (Config.freeByte s.draws), draws := s.draws + 1 }

/-! ### The total order of operations (R58) -/

/-- The next operation word and the state in which it is executed, if one is pending. -/
def State.fetch (s : State) : Option (OpWord × State) :=
  match s.pending with
  | [] => none
  | w :: rest => some (w, { s with pending := rest })

/-- Put an operation word in front of the pending ones; a number that is no 18-bit word is no operation and leaves
the state as it is (log 6). -/
def State.issue (w : Nat) (s : State) : State :=
  if w < 2 ^ 18 then { s with pending := BitVec.ofNat 18 w :: s.pending } else s

end Sys2Proof.Machine
end

