-- ==== Sys2Proof/Machine/Read.lean ====
section
/-! DEFINITION. The meanings of the register reads, one for each row `RD.R0` to `RD.R15` and `RD.OOR`
(spec/40_register_ops.md R120 to R122). A read returns a byte and writes no state of the block. -/

namespace Sys2Proof.Machine

/-- `RD.R0`: return the whole byte of `A_PeriodL` as last written (R120). -/
def execRdR0 (s : State) : Host.Outcome State Fault Refusal := .next (s.readReg (regTonePeriodL 0))

/-- `RD.R1`: return the whole byte of `A_PeriodH` as last written (R120). -/
def execRdR1 (s : State) : Host.Outcome State Fault Refusal := .next (s.readReg (regTonePeriodH 0))

/-- `RD.R2`: return the whole byte of `B_PeriodL` as last written (R120). -/
def execRdR2 (s : State) : Host.Outcome State Fault Refusal := .next (s.readReg (regTonePeriodL 1))

/-- `RD.R3`: return the whole byte of `B_PeriodH` as last written (R120). -/
def execRdR3 (s : State) : Host.Outcome State Fault Refusal := .next (s.readReg (regTonePeriodH 1))

/-- `RD.R4`: return the whole byte of `C_PeriodL` as last written (R120). -/
def execRdR4 (s : State) : Host.Outcome State Fault Refusal := .next (s.readReg (regTonePeriodL 2))

/-- `RD.R5`: return the whole byte of `C_PeriodH` as last written (R120). -/
def execRdR5 (s : State) : Host.Outcome State Fault Refusal := .next (s.readReg (regTonePeriodH 2))

/-- `RD.R6`: return the whole byte of `N_Period` as last written (R120). -/
def execRdR6 (s : State) : Host.Outcome State Fault Refusal := .next (s.readReg regNoisePeriod)

/-- `RD.R7`: return the whole byte of `Mixer` as last written (R120). -/
def execRdR7 (s : State) : Host.Outcome State Fault Refusal := .next (s.readReg regMixer)

/-- `RD.R8`: return the whole byte of `A_Volume` as last written (R120). -/
def execRdR8 (s : State) : Host.Outcome State Fault Refusal := .next (s.readReg (regVolume 0))

/-- `RD.R9`: return the whole byte of `B_Volume` as last written (R120). -/
def execRdR9 (s : State) : Host.Outcome State Fault Refusal := .next (s.readReg (regVolume 1))

/-- `RD.R10`: return the whole byte of `C_Volume` as last written (R120). -/
def execRdR10 (s : State) : Host.Outcome State Fault Refusal := .next (s.readReg (regVolume 2))

/-- `RD.R11`: return the whole byte of `E_PeriodL` as last written (R120). -/
def execRdR11 (s : State) : Host.Outcome State Fault Refusal := .next (s.readReg regEnvPeriodL)

/-- `RD.R12`: return the whole byte of `E_PeriodH` as last written (R120). -/
def execRdR12 (s : State) : Host.Outcome State Fault Refusal := .next (s.readReg regEnvPeriodH)

/-- `RD.R13`: return the whole byte of `E_Shape` as last written (R120). -/
def execRdR13 (s : State) : Host.Outcome State Fault Refusal := .next (s.readReg regEnvShape)

/-- `RD.R14`: return the whole byte of `PortA` as last written (R120). -/
def execRdR14 (s : State) : Host.Outcome State Fault Refusal := .next (s.readReg regPortA)

/-- `RD.R15`: return the whole byte of `PortB` as last written (R120). -/
def execRdR15 (s : State) : Host.Outcome State Fault Refusal := .next (s.readReg regPortB)

/-- `RD.OOR`: an index above 15 returns an unspecified byte, drawn freely (R122, U5; log 4). -/
def execRdOor (_idx : Byte) (s : State) : Host.Outcome State Fault Refusal := .next s.readFree

end Sys2Proof.Machine
end

