-- ==== Sys2Proof/Machine/Time.lean ====
section
/-! DEFINITION. The meanings of `TICK` and `RESET` (spec/45_tick_reset.md R186, R190). -/

namespace Sys2Proof.Machine

/-- `TICK`: every generator advances by one step; the register file is not written, nothing is returned (R186). -/
def execTick (s : State) : Host.Outcome State Fault Refusal := .next (s.act Block.tick)

/-- `RESET`: every piece of state of the block takes the value of the table of R46 (R190). -/
def execReset (s : State) : Host.Outcome State Fault Refusal := .next (s.act Block.resetAll)

end Sys2Proof.Machine
end

