-- ==== Sys2Proof/Machine/Write.lean ====
section
/-! DEFINITION. The meanings of the register writes, one for each row `WR.R0` to `WR.R15` and `WR.OOR`
(spec/40_register_ops.md R100 to R118). A write returns nothing, advances no time and always completes (R100). -/

namespace Sys2Proof.Machine

/-- `WR.R0`: `A_PeriodL <- val` (R102). -/
def execWrR0 (val : Byte) (s : State) : Host.Outcome State Fault Refusal := .next (s.writeReg (regTonePeriodL 0) val)

/-- `WR.R1`: `A_PeriodH <- val` (R103). -/
def execWrR1 (val : Byte) (s : State) : Host.Outcome State Fault Refusal := .next (s.writeReg (regTonePeriodH 0) val)

/-- `WR.R2`: `B_PeriodL <- val` (R104). -/
def execWrR2 (val : Byte) (s : State) : Host.Outcome State Fault Refusal := .next (s.writeReg (regTonePeriodL 1) val)

/-- `WR.R3`: `B_PeriodH <- val` (R105). -/
def execWrR3 (val : Byte) (s : State) : Host.Outcome State Fault Refusal := .next (s.writeReg (regTonePeriodH 1) val)

/-- `WR.R4`: `C_PeriodL <- val` (R106). -/
def execWrR4 (val : Byte) (s : State) : Host.Outcome State Fault Refusal := .next (s.writeReg (regTonePeriodL 2) val)

/-- `WR.R5`: `C_PeriodH <- val` (R107). -/
def execWrR5 (val : Byte) (s : State) : Host.Outcome State Fault Refusal := .next (s.writeReg (regTonePeriodH 2) val)

/-- `WR.R6`: `N_Period <- val` (R108). -/
def execWrR6 (val : Byte) (s : State) : Host.Outcome State Fault Refusal := .next (s.writeReg regNoisePeriod val)

/-- `WR.R7`: `Mixer <- val` (R109). -/
def execWrR7 (val : Byte) (s : State) : Host.Outcome State Fault Refusal := .next (s.writeReg regMixer val)

/-- `WR.R8`: `A_Volume <- val` (R110). -/
def execWrR8 (val : Byte) (s : State) : Host.Outcome State Fault Refusal := .next (s.writeReg (regVolume 0) val)

/-- `WR.R9`: `B_Volume <- val` (R111). -/
def execWrR9 (val : Byte) (s : State) : Host.Outcome State Fault Refusal := .next (s.writeReg (regVolume 1) val)

/-- `WR.R10`: `C_Volume <- val` (R112). -/
def execWrR10 (val : Byte) (s : State) : Host.Outcome State Fault Refusal := .next (s.writeReg (regVolume 2) val)

/-- `WR.R11`: `E_PeriodL <- val` (R113). -/
def execWrR11 (val : Byte) (s : State) : Host.Outcome State Fault Refusal := .next (s.writeReg regEnvPeriodL val)

/-- `WR.R12`: `E_PeriodH <- val` (R114). -/
def execWrR12 (val : Byte) (s : State) : Host.Outcome State Fault Refusal := .next (s.writeReg regEnvPeriodH val)

/-- `WR.R13`: `R[13] <- val; EnvLoad(val)`, on every write, whatever the stored value (R115). -/
def execWrR13 (val : Byte) (s : State) : Host.Outcome State Fault Refusal := .next (s.writeShape val)

/-- `WR.R14`: `PortA <- val` (R116). -/
def execWrR14 (val : Byte) (s : State) : Host.Outcome State Fault Refusal := .next (s.writeReg regPortA val)

/-- `WR.R15`: `PortB <- val` (R117). -/
def execWrR15 (val : Byte) (s : State) : Host.Outcome State Fault Refusal := .next (s.writeReg regPortB val)

/-- `WR.OOR`: an index above 15 addresses nothing, the write is dropped (R118, R85; the index is not reduced modulo 16). -/
def execWrOor (_idx _val : Byte) (s : State) : Host.Outcome State Fault Refusal := .next s.dropWrite

end Sys2Proof.Machine
end

