-- ==== Sys2Proof/Machine/Dispatch.lean ====
section
/-! DEFINITION. The dispatch: one arm for each constructor of Instr, each one call of its meaning. -/

namespace Sys2Proof.Machine

def exec (i : Instr) (s : State) : Host.Outcome State Fault Refusal :=
  match i with
  | .wrR0 val => Sys2Proof.Machine.execWrR0 val s
  | .wrR1 val => Sys2Proof.Machine.execWrR1 val s
  | .wrR2 val => Sys2Proof.Machine.execWrR2 val s
  | .wrR3 val => Sys2Proof.Machine.execWrR3 val s
  | .wrR4 val => Sys2Proof.Machine.execWrR4 val s
  | .wrR5 val => Sys2Proof.Machine.execWrR5 val s
  | .wrR6 val => Sys2Proof.Machine.execWrR6 val s
  | .wrR7 val => Sys2Proof.Machine.execWrR7 val s
  | .wrR8 val => Sys2Proof.Machine.execWrR8 val s
  | .wrR9 val => Sys2Proof.Machine.execWrR9 val s
  | .wrR10 val => Sys2Proof.Machine.execWrR10 val s
  | .wrR11 val => Sys2Proof.Machine.execWrR11 val s
  | .wrR12 val => Sys2Proof.Machine.execWrR12 val s
  | .wrR13 val => Sys2Proof.Machine.execWrR13 val s
  | .wrR14 val => Sys2Proof.Machine.execWrR14 val s
  | .wrR15 val => Sys2Proof.Machine.execWrR15 val s
  | .wrOor idx val => Sys2Proof.Machine.execWrOor idx val s
  | .rdR0 => Sys2Proof.Machine.execRdR0 s
  | .rdR1 => Sys2Proof.Machine.execRdR1 s
  | .rdR2 => Sys2Proof.Machine.execRdR2 s
  | .rdR3 => Sys2Proof.Machine.execRdR3 s
  | .rdR4 => Sys2Proof.Machine.execRdR4 s
  | .rdR5 => Sys2Proof.Machine.execRdR5 s
  | .rdR6 => Sys2Proof.Machine.execRdR6 s
  | .rdR7 => Sys2Proof.Machine.execRdR7 s
  | .rdR8 => Sys2Proof.Machine.execRdR8 s
  | .rdR9 => Sys2Proof.Machine.execRdR9 s
  | .rdR10 => Sys2Proof.Machine.execRdR10 s
  | .rdR11 => Sys2Proof.Machine.execRdR11 s
  | .rdR12 => Sys2Proof.Machine.execRdR12 s
  | .rdR13 => Sys2Proof.Machine.execRdR13 s
  | .rdR14 => Sys2Proof.Machine.execRdR14 s
  | .rdR15 => Sys2Proof.Machine.execRdR15 s
  | .rdOor idx => Sys2Proof.Machine.execRdOor idx s
  | .tick => Sys2Proof.Machine.execTick s
  | .reset => Sys2Proof.Machine.execReset s

end Sys2Proof.Machine
end

