-- ==== Sys2Proof/Machine/Step.lean ====
section
/-! DEFINITION. One step of the machine: the next operation of the total order takes effect, whole
(spec/20_memory.md R58). The block has no program counter and fetches no program (spec/10_state.md R44); what is
executed next is the first pending operation word (log 1). -/

namespace Sys2Proof.Machine

/-- One step. With nothing pending the block is idle and keeps all state (R211, R214; log 2). -/
def step (s : State) : Host.Outcome State Fault Refusal :=
  match s.fetch with
  | none => .next s
  | some (w, s') => exec (decode w) s'

/-- The state in which the operation whose bits are w is the very next one; what was pending comes after it (log 1). -/
def State.withFetchWord (s : State) (nbits w : Nat) : State := s.issue (w % 2 ^ nbits)

end Sys2Proof.Machine
end

