-- ==== Sys2Proof/Machine/Run.lean ====
section
/-! DEFINITION. Several operations one after another (spec/20_memory.md R58, spec/45_tick_reset.md R192): each sees
the whole effect of the one before it. -/

namespace Sys2Proof.Machine

/-- The instructions of a list executed in order, stopping where one does not complete. -/
def execAll : List Instr → State → Host.Outcome State Fault Refusal
  | [], s => .next s
  | i :: is, s =>
    match exec i s with
    | .next t => execAll is t
    | .fault r => .fault r
    | .refused r => .refused r

/-- The bytes that the reads among the instructions return to the host, in order (R12, R120). -/
def replies : List Instr → State → List Byte
  | [], _ => []
  | i :: is, s =>
    match exec i s with
    | .next t => t.reply.toList ++ replies is t
    | .fault _ => []
    | .refused _ => []

/-- `TICK n`: n consecutive ticks with no host operation between them (R87, R192). -/
def tickMany (n : Nat) (s : State) : Host.Outcome State Fault Refusal := execAll (List.replicate n Instr.tick) s

/-- n steps, stopping where one does not complete. -/
def stepMany : Nat → State → Host.Outcome State Fault Refusal
  | 0, s => .next s
  | n + 1, s =>
    match step s with
    | .next t => stepMany n t
    | .fault r => .fault r
    | .refused r => .refused r

end Sys2Proof.Machine
end

