-- ==== Sys2Proof/Machine/Schedule.lean ====
section
/-! DEFINITION. Schedules: the total order of the two agents' operations with the host's batches kept whole
(spec/20_memory.md R57 to R59, R62; spec/70_reset_and_hazards.md R231). A batch is a property of how the host
issues its writes, not an operation of the block (R61): a schedule is flattened to the words the block executes. -/

namespace Sys2Proof.Machine

/-- One entry of the total order (R59): a batch of writes, each an (index, value) pair (R72), or one other operation. -/
inductive Event where
  /-- Consecutive writes of the host with no tick between them: one Frame's writes. -/
  | batch (writes : List (Byte × Byte))
  | rd (idx : Byte)
  | reset
  | tick
deriving DecidableEq, Repr

/-- The operations of an entry, in order. -/
def Event.ops : Event → List Op
  | .batch ws => ws.map fun p => .wr p.1 p.2
  | .rd idx => [.rd idx]
  | .reset => [.reset]
  | .tick => [.tick]

/-- Whose entry it is (R57). -/
def Event.agent : Event → Agent
  | .batch _ => .host
  | .rd _ => .host
  | .reset => .host
  | .tick => .tickSource

/-- A batch holds each register index at most once (R59). -/
def Event.wellFormed : Event → Bool
  | .batch ws => decide (ws.map fun p => p.1).Nodup
  | .rd _ => true
  | .reset => true
  | .tick => true

/-- The total order. Since ticks are entries of their own, none falls inside a batch (R58 (c), R231). -/
abbrev Schedule := List Event

/-- The operations of a schedule. -/
def Schedule.ops (sch : Schedule) : List Op := sch.flatMap Event.ops

/-- The operation words of a schedule. -/
def Schedule.words (sch : Schedule) : List OpWord := (Schedule.ops sch).map encodeOp

/-- The host's entries in its own issue order (R58). -/
def Schedule.hostEvents (sch : Schedule) : List Event := sch.filter fun e => e.agent == Agent.host

/-- The schedules that R62 admits for what the host issues: any number of ticks anywhere between its entries. -/
def Schedule.admits (host : List Event) (sch : Schedule) : Bool :=
  Schedule.hostEvents sch == host && sch.all Event.wellFormed

/-- The agents issue a schedule: its words come after what is already pending. -/
def State.arrive (sch : Schedule) (s : State) : State := { s with pending := s.pending ++ Schedule.words sch }

end Sys2Proof.Machine
end

