-- ==== Sys2Proof/Machine/Asm.lean ====
section
/-! DEFINITION. The assembler's lines and pseudo-operations with their expansions (spec/30_encoding.md R86, R87).
A line is held as a term and printed to its text; comments carry nothing (log 10). -/

namespace Sys2Proof.Machine

/-- A line that writes registers. -/
inductive AsmWrite where
  /-- `WR Rn, v`. -/
  | reg (n : Fin 16) (v : Byte)
  /-- `WR i, v`. -/
  | idx (i v : Byte)
  /-- `WRTP c, p`: both halves of the tone period of channel c, p in 0..4095. -/
  | tonePeriod (c : Fin 3) (p : BitVec 12)
  /-- `WREP p`: both halves of the envelope period, p in 0..65535. -/
  | envPeriod (p : BitVec 16)
deriving DecidableEq, Repr

/-- A line, or the lines from `FRAME` to `END`. -/
inductive AsmLine where
  | write (w : AsmWrite)
  /-- `RD Rn`. -/
  | rdReg (n : Fin 16)
  /-- `RD i`. -/
  | rd (i : Byte)
  /-- `TICK`. -/
  | tick
  /-- `TICK n`. -/
  | ticks (n : Nat)
  | reset
  /-- `FRAME` ... `END`: the writes between are one batch. -/
  | frame (ws : List AsmWrite)
deriving DecidableEq, Repr

/-- A register's number as an index byte. -/
def indexByte (n : Fin 16) : Byte := BitVec.ofNat 8 n.val

/-- The writes of a line, low register first (R87). -/
def AsmWrite.writes : AsmWrite → List (Byte × Byte)
  | .reg n v => [(indexByte n, v)]
  | .idx i v => [(i, v)]
  | .tonePeriod c p =>
    [(indexByte (regTonePeriodL c), BitVec.ofNat 8 (p.toNat % 256)),
     (indexByte (regTonePeriodH c), BitVec.ofNat 8 (p.toNat / 256 % 16))]
  | .envPeriod p =>
    [(indexByte regEnvPeriodL, BitVec.ofNat 8 (p.toNat % 256)),
     (indexByte regEnvPeriodH, BitVec.ofNat 8 (p.toNat / 256 % 256))]

/-- What a line expands to (R86, R87). -/
def AsmLine.expand : AsmLine → Schedule
  | .write w => [.batch w.writes]
  | .rdReg n => [.rd (indexByte n)]
  | .rd i => [.rd i]
  | .tick => [.tick]
  | .ticks n => List.replicate n .tick
  | .reset => [.reset]
  | .frame ws => [.batch (ws.flatMap AsmWrite.writes)]

/-- A program is its lines in order; it assembles to the words the agents issue. -/
def assemble (prog : List AsmLine) : List OpWord := Schedule.words (prog.flatMap AsmLine.expand)

/-- The channel names A, B, C. -/
def channelName (c : Fin 3) : String :=
  match c with
  | 0 => "A"
  | 1 => "B"
  | 2 => "C"

/-- The text of a writing line (R86, R87), numbers in decimal. -/
def AsmWrite.text : AsmWrite → String
  | .reg n v => "WR R" ++ toString n.val ++ ", " ++ toString v.toNat
  | .idx i v => "WR " ++ toString i.toNat ++ ", " ++ toString v.toNat
  | .tonePeriod c p => "WRTP " ++ channelName c ++ ", " ++ toString p.toNat
  | .envPeriod p => "WREP " ++ toString p.toNat

/-- The text of a line, one operation a line (R86). -/
def AsmLine.text : AsmLine → List String
  | .write w => [w.text]
  | .rdReg n => ["RD R" ++ toString n.val]
  | .rd i => ["RD " ++ toString i.toNat]
  | .tick => ["TICK"]
  | .ticks n => ["TICK " ++ toString n]
  | .reset => ["RESET"]
  | .frame ws => ["FRAME"] ++ ws.map AsmWrite.text ++ ["END"]

end Sys2Proof.Machine
end

