-- ==== Sys2Proof/Machine/Reference.lean ====
section
/-! DEFINITION. The four operations of spec/30_encoding.md R70 as one function each, as the general rules give them
(spec/40_register_ops.md R101, R120, R122; spec/45_tick_reset.md R186, R190): the reading that exec, written row by
row, is to agree with. No meaning of exec uses this file. -/

namespace Sys2Proof.Machine

/-- The pseudocode of R101: the general semantics of `WR(idx, val)`. -/
def Block.wr (idx val : Byte) (b : Block) : Block :=
  if h : idx.toNat ≤ 15 then
    let stored := b.store ⟨idx.toNat, by omega⟩ val
    if idx = 13 then stored.loadEnvelope val else stored
  else b

/-- One abstract operation on the block: a read leaves it as it is. -/
def Block.apply (b : Block) : Op → Block
  | .wr idx val => b.wr idx val
  | .rd _ => b
  | .tick => b.tick
  | .reset => Block.reset

/-- One abstract operation on the whole state, with what it returns. -/
def State.apply (s : State) : Op → State
  | .rd idx =>
    if h : idx.toNat ≤ 15 then { s with reply := some (s.block.read ⟨idx.toNat, by omega⟩) }
    else { s with reply := some (Config.freeByte s.draws), draws := s.draws + 1 }
  | op => { s with block := s.block.apply op, reply := none }

/-- n consecutive ticks on the block (R192). -/
def Block.ticks : Nat → Block → Block
  | 0, b => b
  | n + 1, b => Block.ticks n b.tick

end Sys2Proof.Machine
end

