-- ==== Sys2Proof/Machine/Mixer.lean ====
section
/-! DEFINITION. The mixer and the DAC stage: pure functions of the block and the configuration, without state
(spec/44_mixer_dac.md R171 to R178; spec/41_tone.md R134; spec/43_noise.md R165), and what can be observed
(spec/00_scope.md R12). They are evaluated on the state when the outputs are observed (R187). -/

namespace Sys2Proof.Machine

/-- `tone_bit(c) = DUTY50[tone_phase[c]]` (R134). -/
def Block.toneBit (b : Block) (c : Fin 3) : Bool := duty50.getLsbD (b.tone[c]).phase.toNat

/-- `noise_bit = lfsr[0]`, one bit for all three channels (R165, R164 (e)). -/
def Block.noiseBit (b : Block) : Bool := b.noise.lfsr.getLsbD lfsrOutputBit

/-- `tone_enabled(c)`, by the polarity of the mixer bits (R29, R171). -/
def Block.toneEnabled (cfg : Config) (b : Block) (c : Fin 3) : Bool :=
  if cfg.mixerActiveLow then !b.toneOff c else b.toneOff c

/-- `noise_enabled(c)`, by the polarity of the mixer bits (R29, R171). -/
def Block.noiseEnabled (cfg : Config) (b : Block) (c : Fin 3) : Bool :=
  if cfg.mixerActiveLow then !b.noiseOff c else b.noiseOff c

/-- `gate(c)`: a disabled input contributes a constant 1 (R172). -/
def Block.gate (cfg : Config) (b : Block) (c : Fin 3) : Bool :=
  (if b.toneEnabled cfg c then b.toneBit c else true) && (if b.noiseEnabled cfg c then b.noiseBit else true)

/-- `level(c)`: the envelope's level where `M(c)` = 1, the fixed level otherwise (R173). -/
def Block.level (b : Block) (c : Fin 3) : BitVec 4 := if b.envSelect c then b.env.level else b.fixedLevel c

/-- `OUT(c) = gate(c) ? VOLTAB[level(c)] : 0` (R174). -/
def Block.out (cfg : Config) (b : Block) (c : Fin 3) : Nat :=
  if b.gate cfg c then cfg.voltab (b.level c).toFin else 0

/-- The three output codes (R178). -/
def Block.outputs (cfg : Config) (b : Block) : Vector Nat 3 := #v[b.out cfg 0, b.out cfg 1, b.out cfg 2]

/-- "Advance one sample" of R185: `TICKS_PER_SAMPLE` ticks, then a reading of the outputs. The number is an argument
(R7, U3). -/
def Block.sample (cfg : Config) (ticksPerSample : Nat) (b : Block) : Block × Vector Nat 3 :=
  (b.ticks ticksPerSample, (b.ticks ticksPerSample).outputs cfg)

/-- All that can be observed: the byte a read returned, and the output codes (R12). -/
structure Observation where
  reply : Option Byte
  out : Vector Nat 3
deriving DecidableEq, Repr

/-- What is observed of a state (R12). -/
def State.observe (cfg : Config) (s : State) : Observation where
  reply := s.reply
  out := s.block.outputs cfg

end Sys2Proof.Machine
end

