-- ==== Sys2Proof/Machine/TurboSound.lean ====
section
/-! DEFINITION. Two chips: two complete copies of the block that share no state (spec/60_exceptions.md R212). The
source gives no chip-select encoding, so which chip moves is an argument (log 9); the averaging of the outputs is
out of scope (spec/00_scope.md R4 (d)). -/

namespace Sys2Proof.Machine

/-- Chip 0 and chip 1, indexed independently by the host (R212). -/
inductive Chip where
  | chip0
  | chip1
deriving DecidableEq, Repr

/-- A dual-chip system (R212). -/
structure TurboSound where
  chip0 : State
  chip1 : State
deriving DecidableEq, Repr

/-- One step of the addressed chip; the other keeps all its state (R212). Each chip draws its free bytes by its own
counter from the one `Config.freeByte`, so that two chips with equal counters return equal bytes: that is the model's
choice, not the spec's (log 17). -/
def TurboSound.step (k : Chip) (d : TurboSound) : Host.Outcome TurboSound Fault Refusal :=
  match k with
  | .chip0 =>
    match Sys2Proof.Machine.step d.chip0 with
    | .next t => .next { d with chip0 := t }
    | .fault r => .fault r
    | .refused r => .refused r
  | .chip1 =>
    match Sys2Proof.Machine.step d.chip1 with
    | .next t => .next { d with chip1 := t }
    | .fault r => .fault r
    | .refused r => .refused r

/-- Steps of the two chips in any interleaving. -/
def TurboSound.stepAll : List Chip → TurboSound → Host.Outcome TurboSound Fault Refusal
  | [], d => .next d
  | k :: ks, d =>
    match d.step k with
    | .next e => TurboSound.stepAll ks e
    | .fault r => .fault r
    | .refused r => .refused r

end Sys2Proof.Machine
end

