-- ==== Sys2Proof/Safety.lean ====
section
/-! DEFINITION. The terms claims are stated in: what a safe outcome is (spec/60_exceptions.md R200), the invariants
of the block (spec/10_state.md R38, R39; spec/42_envelope.md R151; spec/43_noise.md R166) and the frames of the
operations. -/

namespace Sys2Proof.Machine

/-- A safe outcome: the machine goes on, with neither a fault nor a refusal (R200). -/
def Completes (o : Host.Outcome State Fault Refusal) : Prop := ∃ t, o = .next t

/-- The invariants of every reachable block. -/
structure Block.Inv (b : Block) : Prop where
  /-- `tone_cnt[c]` never exceeds 4094 (R38). -/
  toneCnt : ∀ c : Fin 3, (b.tone[c]).cnt.toNat ≤ 4094
  /-- `noise_cnt` never exceeds 61 (R39). -/
  noiseCnt : b.noise.cnt.toNat ≤ 61
  /-- The shift register is never zero (R166). -/
  lfsrNonzero : b.noise.lfsr ≠ 0
  /-- `env_cnt` never exceeds 131069 (R40). -/
  envCnt : b.env.cnt.toNat ≤ 131069
  /-- `env_hold` is that of the normalised shape of the last byte written to `R[13]`, or of 0 after reset (R151). -/
  envHold : b.env.hold = normHold b.regs[regEnvShape]
  /-- `env_alt` likewise (R151). -/
  envAlt : b.env.alt = normAlt b.regs[regEnvShape]
  /-- The direction is the attack bit unless the envelope bounces (R149). -/
  envUp : (b.env.hold = true ∨ b.env.alt = false) → b.env.up = normAtt b.regs[regEnvShape]
  /-- A stopped envelope has its hold flag (R151) and rests at the end that R149 (a) names: 15 where exactly one of
  attack and alternate is set, else 0. -/
  envHolding : b.env.holding = true → b.env.hold = true ∧
    b.env.level = if (normAtt b.regs[regEnvShape] ^^ b.env.alt) then 15 else 0

/-- The invariant of the machine: that of its block. -/
def State.Inv (s : State) : Prop := s.block.Inv

/-- The interface is as an operation that returns nothing leaves it. -/
def SameInterface (s t : State) : Prop := t.pending = s.pending ∧ t.draws = s.draws ∧ t.reply = none

/-- Every register but register i keeps its value. -/
def OtherRegsKept (i : Fin 16) (s t : State) : Prop := ∀ j : Fin 16, j ≠ i → t.block.regs[j] = s.block.regs[j]

/-- No generator state moves (R119 (e), R100). -/
def GeneratorsKept (s t : State) : Prop :=
  t.block.tone = s.block.tone ∧ t.block.noise = s.block.noise ∧ t.block.env = s.block.env

/-- Register i takes the byte v and nothing else of the block changes. -/
def StoresOnly (i : Fin 16) (v : Byte) (s t : State) : Prop :=
  t.block.regs[i] = v ∧ OtherRegsKept i s t ∧ GeneratorsKept s t ∧ SameInterface s t

/-- No operation among them resets or writes register k: what it takes to hold the register constant (R137, R153,
R167). -/
def LeavesRegister (k : Fin 16) (is : List Instr) : Prop :=
  ∀ i ∈ is, i ≠ .reset ∧ ∀ idx v, i.toOp = .wr idx v → idx.toNat ≠ k.val

/-- The table of R46, row by row, in plain numbers. -/
structure HoldsResetTable (b : Block) : Prop where
  regs : ∀ i : Fin 16, b.regs[i] = 0x00
  tone : ∀ c : Fin 3, (b.tone[c]).cnt.toNat = 0 ∧ (b.tone[c]).phase.toNat = 0
  noise : b.noise.cnt.toNat = 0 ∧ b.noise.lfsr.toNat = 0x1FFFF
  env : b.env.cnt.toNat = 0 ∧ b.env.level.toNat = 15
  flags : b.env.up = false ∧ b.env.hold = true ∧ b.env.alt = false ∧ b.env.holding = false

/-- The level sequences of R152 in closed form: the level after k envelope steps from a load of the shape. -/
def trajectory (shape k : Nat) : Nat :=
  match shape with
  | 8 => 15 - k % 16
  | 10 => if k % 32 < 16 then 15 - k % 32 else k % 32 - 16
  | 11 => if k < 16 then 15 - k else 15
  | 12 => k % 16
  | 13 => if k < 16 then k else 15
  | 14 => if k % 32 < 16 then k % 32 else 31 - k % 32
  | 4 | 5 | 6 | 7 | 15 => if k < 16 then k else 0
  | _ => if k < 16 then 15 - k else 0

/-- The shapes that run for ever, 0x8, 0xA, 0xC, 0xE; every other one stops at step 16 (R152). -/
def runsForEver (shape : Nat) : Bool := shape == 8 || shape == 10 || shape == 12 || shape == 14

/-- A number is odd, as a bit. -/
def oddBit (n : Nat) : Bool := n % 2 == 1

end Sys2Proof.Machine
end

