-- ==== Sys2Proof/Certificates/Slice0/Obligations.lean ====
section
/-! DEFINITION. The statements about the block, in the order of OBLIGATIONS.json. `R<n>` is a rule of spec/.
A statement about outputs is for every volume table; one that names no polarity is for both. Most rules of the spec carry
its own decision or derivation mark (spec/92_eei_decisions.md); they are cited as the spec's rules they are (log 11). -/

open Sys2Proof Sys2Proof.Machine

namespace Sys2Proof.Machine

/-! ### Words the statements share -/

/-- The words `row + 0x00` to `row + 0xFF` are the rows' instructions i(0x00) to i(0xFF), both ways. -/
def EncodedAs (row : Nat) (i : Byte → Instr) : Prop :=
  ∀ v : Byte, decode (BitVec.ofNat 18 (row + v.toNat)) = i v ∧ encode (i v) = BitVec.ofNat 18 (row + v.toNat)

/-- The instruction completes and its next state has the property. -/
def ExecGives (i : Instr) (s : State) (post : State → Prop) : Prop := ∃ t, exec i s = .next t ∧ post t

/-- The instructions complete one after another and the last state has the property. -/
def ExecAllGives (is : List Instr) (s : State) (post : State → Prop) : Prop := ∃ t, execAll is s = .next t ∧ post t

/-- After t, a tick is an expiry of the tone generator of channel c. -/
def NextTickExpires (c : Fin 3) (t : State) : Prop :=
  ExecGives .tick t fun u =>
    (u.block.tone[c]).cnt = 0 ∧ (u.block.tone[c]).phase.toNat = ((t.block.tone[c]).phase.toNat + 1) % 32

/-- At the next tick after t the envelope counter is compared with the period in force, 0 acting as 1: it expires and
an envelope step follows, or it counts on (R113, R145, R148). -/
def NextTickCountsEnvelope (t : State) : Prop :=
  ExecGives .tick t fun u =>
    (2 * max 1 t.block.envPeriod.toNat ≤ t.block.env.cnt.toNat + 1 →
      u.block.env = { t.block.env with cnt := 0 }.levelStep) ∧
    (t.block.env.cnt.toNat + 1 < 2 * max 1 t.block.envPeriod.toNat →
      u.block.env.cnt.toNat = t.block.env.cnt.toNat + 1 ∧ u.block.env.level = t.block.env.level)

/-- From s to t the tone counter of channel c was compared once with the period p, 0 acting as 1: it expired and the
phase advanced, or it counted on (R132). -/
def CountsTone (c : Fin 3) (p : Nat) (s t : State) : Prop :=
  (max 1 p ≤ (s.block.tone[c]).cnt.toNat + 1 → (t.block.tone[c]).cnt.toNat = 0 ∧
    (t.block.tone[c]).phase.toNat = ((s.block.tone[c]).phase.toNat + 1) % 32) ∧
  ((s.block.tone[c]).cnt.toNat + 1 < max 1 p → (t.block.tone[c]).cnt.toNat = (s.block.tone[c]).cnt.toNat + 1 ∧
    (t.block.tone[c]).phase = (s.block.tone[c]).phase)

/-- From s to t the envelope counter was compared once with the period p, 0 acting as 1: it expired and an envelope step
followed, or it counted on (R146). -/
def CountsEnvelope (p : Nat) (s t : State) : Prop :=
  (2 * max 1 p ≤ s.block.env.cnt.toNat + 1 → t.block.env = { s.block.env with cnt := 0 }.levelStep) ∧
  (s.block.env.cnt.toNat + 1 < 2 * max 1 p → t.block.env.cnt.toNat = s.block.env.cnt.toNat + 1 ∧
    t.block.env.level = s.block.env.level)

/-- A write of the low half of the tone period of channel c (R102, R104, R106). -/
def WritesTonePeriodLow (i : Byte → Instr) (c : Fin 3) : Prop :=
  EncodedAs (512 * c.val) i ∧
  ∀ (v : Byte) (s : State), ExecGives (i v) s fun t =>
    StoresOnly ⟨2 * c.val, by omega⟩ v s t ∧
    (t.block.tonePeriod c).toNat = (s.block.tonePeriod c).toNat / 256 * 256 + v.toNat ∧
    (∀ d, d ≠ c → t.block.tonePeriod d = s.block.tonePeriod d) ∧
    (s.block.regs[2 * c.val]'(by omega) = v → t.block = s.block) ∧
    ((t.block.tonePeriod c).toNat ≤ (s.block.tone[c]).cnt.toNat + 1 → NextTickExpires c t) ∧
    (v = 0 → (s.block.regs[2 * c.val + 1]'(by omega)).toNat % 16 = 0 →
      (t.block.tonePeriod c).toNat = 0 ∧ NextTickExpires c t)

/-- A write of the high half of the tone period of channel c (R103, R105, R107; R136 (a) for the next tick). -/
def WritesTonePeriodHigh (i : Byte → Instr) (c : Fin 3) : Prop :=
  EncodedAs (512 * c.val + 256) i ∧
  ∀ (v : Byte) (s : State), ExecGives (i v) s fun t =>
    StoresOnly ⟨2 * c.val + 1, by omega⟩ v s t ∧
    (t.block.tonePeriod c).toNat = v.toNat % 16 * 256 + (s.block.tonePeriod c).toNat % 256 ∧
    (∀ d, d ≠ c → t.block.tonePeriod d = s.block.tonePeriod d) ∧
    (s.block.regs[2 * c.val + 1]'(by omega) = v → t.block = s.block) ∧
    ((t.block.tonePeriod c).toNat ≤ (s.block.tone[c]).cnt.toNat + 1 → NextTickExpires c t) ∧
    (v.toNat % 16 = 0 → s.block.regs[2 * c.val]'(by omega) = 0 →
      (t.block.tonePeriod c).toNat = 0 ∧ NextTickExpires c t) ∧
    (∀ w : Byte, w.toNat % 16 = v.toNat % 16 → ExecGives (i w) s fun u =>
      u.block.tonePeriod c = t.block.tonePeriod c ∧ OtherRegsKept ⟨2 * c.val + 1, by omega⟩ t u ∧
      GeneratorsKept t u)

/-- A write of the volume register of channel c (R110, R111, R112). -/
def WritesVolume (i : Byte → Instr) (c : Fin 3) : Prop :=
  EncodedAs (0x800 + 256 * c.val) i ∧
  (∀ (v : Byte) (s : State), ExecGives (i v) s fun t =>
    StoresOnly ⟨8 + c.val, by omega⟩ v s t ∧
    (t.block.fixedLevel c).toNat = v.toNat % 16 ∧
    t.block.envSelect c = oddBit (v.toNat / 16) ∧
    (∀ d, d ≠ c → t.block.fixedLevel d = s.block.fixedLevel d ∧ t.block.envSelect d = s.block.envSelect d) ∧
    (∀ w : Byte, 0x10 ≤ v.toNat → v.toNat ≤ 0x1F → 0x10 ≤ w.toNat → w.toNat ≤ 0x1F →
      ExecGives (i w) s fun u =>
        (∀ cfg, u.block.outputs cfg = t.block.outputs cfg) ∧ OtherRegsKept ⟨8 + c.val, by omega⟩ t u ∧
        GeneratorsKept t u)) ∧
  ∃ (cfg : Config) (s : State) (v : Byte), ExecGives (i v) s fun t => t.block.out cfg c ≠ s.block.out cfg c

/-- A write of a register that is storage only (R116, R117): no output changes and no generator reads it. -/
def WritesStorage (i : Byte → Instr) (k : Fin 16) : Prop :=
  EncodedAs (256 * k.val) i ∧
  ∀ (v : Byte) (s : State), ExecGives (i v) s fun t =>
    StoresOnly k v s t ∧ (∀ cfg, t.block.outputs cfg = s.block.outputs cfg) ∧
    (∃ u u', exec .tick t = .next u ∧ exec .tick s = .next u' ∧ GeneratorsKept u' u) ∧
    ExecGives (Instr.ofRead (BitVec.ofNat 8 k.val)) t fun u => u.reply = some v

/-- A read of register k (R120): its encoding with any low byte, the returned byte, and nothing else. -/
def ReadsRegister (i : Instr) (k : Fin 16) : Prop :=
  (∀ x : Byte, decode (BitVec.ofNat 18 (0x10000 + 256 * k.val + x.toNat)) = i) ∧
  (∀ s : State, ExecGives i s fun t =>
    t.reply = some s.block.regs[k] ∧ t.block = s.block ∧ t.pending = s.pending ∧ t.draws = s.draws) ∧
  ExecGives i State.reset fun t => t.reply = some 0

end Sys2Proof.Machine

/-! ### Encoding -/

/-- R70, R71, R74, R86: no operand bit of any instruction is lost by its encoding. -/
def Obligations.DecodeInvertsEncode : Prop :=
  ∀ i : Instr, i.wellFormed = true → decode (encode i) = i ∧ decodeTableWord 24 (encode i).toNat = some i

/-- R71: "Ignored bits may hold anything and do not change the operation; an encoder writes them as 0." -/
def Obligations.IgnoredBitsDoNotMatter : Prop :=
  (∀ idx val : Byte, decode (OpWord.ofFields 0b00 idx val) = Op.toInstr (.wr idx val)) ∧
  (∀ idx x : Byte, decode (OpWord.ofFields 0b01 idx x) = Op.toInstr (.rd idx)) ∧
  (∀ x y : Byte, decode (OpWord.ofFields 0b10 x y) = .tick) ∧
  (∀ x y : Byte, decode (OpWord.ofFields 0b11 x y) = .reset) ∧
  ∀ w : OpWord, encode (decode w) =
    if w.toNat < 0x10000 then w else if w.toNat < 0x20000 then w &&& 0x3FF00 else w &&& 0x30000

/-- R74, R88: every word decodes to a well-formed instruction, that of the first table row that accepts it. -/
def Obligations.DecodeTakesFirstTableRow : Prop :=
  opcodeTable.length = 36 ∧
  ∀ w : OpWord, (decode w).wellFormed = true ∧
    ∃ r, firstRow w = some r ∧ decode w = r.make w ∧ opcodeTable[(decode w).rowNumber]? = some r

/-- R71, R86: words written out bit by bit. -/
def Obligations.WrittenOutWordsDecode : Prop :=
  decode 0b000000000000000010 = .wrR0 0x02 ∧ decode 0b000000011100111110 = .wrR7 0x3E ∧
  decode 0b000000110100001010 = .wrR13 0x0A ∧ decode 0b000000111111111111 = .wrR15 0xFF ∧
  decode 0b000001000000000000 = .wrOor 0x10 0x00 ∧ decode 0b001111111111111111 = .wrOor 0xFF 0xFF ∧
  decode 0b010000011100000000 = .rdR7 ∧ decode 0b010000011101011010 = .rdR7 ∧
  decode 0b010010000000000000 = .rdOor 0x20 ∧ decode 0b100000000000000000 = .tick ∧
  decode 0b101010101111001101 = .tick ∧ decode 0b110000000000000000 = .reset ∧
  decode 0b111111111111111111 = .reset

/-- R72: the low 16 bits of a write's word are the index byte and then the value byte. -/
def Obligations.WriteWordIsTheBytePair : Prop :=
  (∀ idx val : Byte, (encodeOp (.wr idx val)).toNat = 256 * idx.toNat + val.toNat) ∧
  encodeOp (.wr 0x07 0x05) = 0x00705 ∧ decode 0x00705 = .wrR7 0x05

/-! ### The step -/

/-- R58, R60, R211: a step executes the first pending operation, decoded, on the state with the rest pending; with
nothing pending it keeps all state. That operations arrive as a list of words of which the first is next, and that
withFetchWord puts a word in front of it, is the model's choice (log 1, DESIGN CHOICE; its widths log 6); so is the idle
step (log 2). -/
def Obligations.StepRunsDecodedOperation : Prop :=
  (∀ (s : State) (w : OpWord) (rest : List OpWord), s.pending = w :: rest →
    step s = exec (decode w) { s with pending := rest }) ∧
  (∀ (s : State) (i : Instr) (rest : List OpWord), i.wellFormed = true → s.pending = encode i :: rest →
    step s = exec i { s with pending := rest }) ∧
  (∀ s : State, s.pending = [] → step s = .next s) ∧
  ∀ (s : State) (i : Instr), i.wellFormed = true →
    step (s.withFetchWord 24 (encode i).toNat) = exec i s

/-- R200, R214: every operation completes, with any operands and in any state, and so does every step. -/
def Obligations.EveryOperationCompletes : Prop :=
  (∀ (i : Instr) (s : State), Completes (exec i s)) ∧ ∀ s : State, Completes (step s)

/-- R58, R214: from any state the pending words are executed one a step, in order and to the end, each by the general
rule of its operation. The list of pending words is the model's form of the total order (log 1, DESIGN CHOICE), and the
byte that an out-of-range read leaves in State.apply is its form of the free byte (log 4, DESIGN CHOICE). -/
def Obligations.RunExecutesPendingInOrder : Prop :=
  ∀ (s : State) (ops : List Op) (rest : List OpWord), s.pending = ops.map encodeOp ++ rest →
    stepMany ops.length s = .next (ops.foldl State.apply { s with pending := rest }) ∧
    execAll (ops.map Op.toInstr) { s with pending := rest } = stepMany ops.length s ∧
    Host.Core.run Sys2Proof.core ops.length s = stepMany ops.length s

/-- R70, R101, R120, R122, R186, R190: exec, written row by row, is the general semantics of the four operations; for
`WR(idx, val)` that of R101. The reply of an out-of-range read, the free byte of the number drawn so far, is the model's
choice (log 4, DESIGN CHOICE), and so is the reply field (log 3, DESIGN CHOICE). -/
def Obligations.ExecIsTheGeneralSemantics : Prop :=
  (∀ (op : Op) (s : State), exec op.toInstr s = .next (s.apply op)) ∧
  ∀ (idx val : Byte) (s : State), ExecGives (Instr.ofWrite idx val) s fun t =>
    (∀ k : Fin 16, t.block.regs[k] = if idx.toNat = k.val then val else s.block.regs[k]) ∧
    t.block.tone = s.block.tone ∧ t.block.noise = s.block.noise ∧
    t.block.env = (if idx = 13 then Envelope.load val else s.block.env) ∧ SameInterface s t

/-! ### Register writes -/

/-- R102 to R107: the tone period writes. -/
def Obligations.TonePeriodWrites : Prop :=
  WritesTonePeriodLow .wrR0 0 ∧ WritesTonePeriodHigh .wrR1 0 ∧
  WritesTonePeriodLow .wrR2 1 ∧ WritesTonePeriodHigh .wrR3 1 ∧
  WritesTonePeriodLow .wrR4 2 ∧ WritesTonePeriodHigh .wrR5 2

/-- R108: the noise period write. -/
def Obligations.NoisePeriodWrite : Prop :=
  EncodedAs 0x600 .wrR6 ∧
  ∀ (v : Byte) (s : State), ExecGives (.wrR6 v) s fun t =>
    StoresOnly 6 v s t ∧ t.block.noisePeriod.toNat = v.toNat % 32 ∧
    (2 * max 1 t.block.noisePeriod.toNat ≤ s.block.noise.cnt.toNat + 1 → ExecGives .tick t fun u =>
      u.block.noise.cnt = 0 ∧ u.block.noise.lfsr = lfsrNext s.block.noise.lfsr) ∧
    (s.block.noise.cnt.toNat + 1 < 2 * max 1 t.block.noisePeriod.toNat → ExecGives .tick t fun u =>
      u.block.noise.cnt.toNat = s.block.noise.cnt.toNat + 1 ∧ u.block.noise.lfsr = s.block.noise.lfsr) ∧
    (v = 0xFF → t.block.noisePeriod.toNat = 31) ∧ (v = 0x21 → t.block.noisePeriod.toNat = 1)

/-- R109: the mixer write, under the default polarity where it speaks of enabling. -/
def Obligations.MixerWrite : Prop :=
  EncodedAs 0x700 .wrR7 ∧
  (∀ (v : Byte) (s : State), ExecGives (.wrR7 v) s fun t =>
    StoresOnly 7 v s t ∧
    (∀ cfg : Config, cfg.mixerActiveLow = true → ∀ c : Fin 3,
      t.block.toneEnabled cfg c = !oddBit (v.toNat / 2 ^ c.val) ∧
      t.block.noiseEnabled cfg c = !oddBit (v.toNat / 2 ^ (3 + c.val)) ∧
      (v = 0x3F → t.block.gate cfg c = true) ∧
      (v = 0x00 → t.block.toneEnabled cfg c = true ∧ t.block.noiseEnabled cfg c = true)) ∧
    (∀ w : Byte, w.toNat % 64 = v.toNat % 64 → ExecGives (.wrR7 w) s fun u =>
      ∀ cfg, u.block.outputs cfg = t.block.outputs cfg) ∧
    ∃ u u', exec .tick t = .next u ∧ exec .tick s = .next u' ∧ GeneratorsKept u' u) ∧
  ∃ (cfg : Config) (s : State) (v : Byte) (c : Fin 3),
    ExecGives (.wrR7 v) s fun t => t.block.out cfg c ≠ s.block.out cfg c

/-- R110 to R112: the volume writes. -/
def Obligations.VolumeWrites : Prop :=
  WritesVolume .wrR8 0 ∧ WritesVolume .wrR9 1 ∧ WritesVolume .wrR10 2

/-- R113, R114: the envelope period writes, which do not restart the envelope. -/
def Obligations.EnvelopePeriodWrites : Prop :=
  EncodedAs 0xB00 .wrR11 ∧ EncodedAs 0xC00 .wrR12 ∧
  ∀ (v : Byte) (s : State),
    (ExecGives (.wrR11 v) s fun t => StoresOnly 11 v s t ∧ NextTickCountsEnvelope t ∧
      t.block.envPeriod.toNat = s.block.envPeriod.toNat / 256 * 256 + v.toNat) ∧
    ExecGives (.wrR12 v) s fun t => StoresOnly 12 v s t ∧ NextTickCountsEnvelope t ∧
      t.block.envPeriod.toNat = v.toNat * 256 + s.block.envPeriod.toNat % 256

/-- R141, R142: the shape write normalises the shape and loads the envelope, whatever the byte was before; `RESET`
loads it with 0. -/
def Obligations.ShapeWriteLoadsEnvelope : Prop :=
  EncodedAs 0xD00 .wrR13 ∧
  (∀ (v : Byte) (s : State), ExecGives (.wrR13 v) s fun t =>
    t.block.regs[13] = v ∧ OtherRegsKept 13 s t ∧ t.block.tone = s.block.tone ∧ t.block.noise = s.block.noise ∧
    SameInterface s t ∧
    (v.toNat / 8 % 2 = 0 → t.block.env.hold = true ∧ t.block.env.alt = oddBit (v.toNat / 4)) ∧
    (v.toNat / 8 % 2 = 1 → t.block.env.hold = oddBit v.toNat ∧ t.block.env.alt = oddBit (v.toNat / 2)) ∧
    t.block.env.up = oddBit (v.toNat / 4) ∧
    t.block.env.level.toNat = (if v.toNat / 4 % 2 = 1 then 0 else 15) ∧
    t.block.env.holding = false ∧ t.block.env.cnt.toNat = 0) ∧
  ∀ s s' : State, ∃ t t', exec .reset s = .next t ∧ exec (.wrR13 0) s' = .next t' ∧ t.block.env = t'.block.env

/-- R116, R117: the port registers are storage. -/
def Obligations.PortWritesAreStorage : Prop := WritesStorage .wrR14 14 ∧ WritesStorage .wrR15 15

/-- R118, R85: a write to an index above 15 changes nothing of the block; the index is not reduced modulo 16. -/
def Obligations.OutOfRangeWriteIsDropped : Prop :=
  ∀ idx val : Byte, 15 < idx.toNat →
    decode (BitVec.ofNat 18 (256 * idx.toNat + val.toNat)) = .wrOor idx val ∧
    ∀ s : State, ExecGives (.wrOor idx val) s fun t => t.block = s.block ∧ SameInterface s t

/-- R119: the laws of `WR`. -/
def Obligations.WriteLaws : Prop :=
  (∀ (i v : Byte) (ops : List Op) (s : State), i.toNat ≤ 15 →
    (∀ op ∈ ops, op ≠ .reset ∧ ∀ w, op ≠ .wr i w) →
    ExecAllGives (Instr.ofWrite i v :: (ops.map Op.toInstr ++ [Instr.ofRead i])) s fun t => t.reply = some v) ∧
  (∀ (i v : Byte) (s : State) (h : i.toNat ≤ 15), i ≠ 13 → s.block.regs[i.toNat]'(by omega) = v →
    ExecGives (Instr.ofWrite i v) s fun t => t.block = s.block) ∧
  (∀ (i v j w : Byte) (s : State), i ≠ j → ∃ t,
    execAll [Instr.ofWrite i v, Instr.ofWrite j w] s = .next t ∧
    execAll [Instr.ofWrite j w, Instr.ofWrite i v] s = .next t) ∧
  (∀ (i v w : Byte) (s : State), ∃ t,
    execAll [Instr.ofWrite i v, Instr.ofWrite i w] s = .next t ∧ execAll [Instr.ofWrite i w] s = .next t) ∧
  ∀ (i v : Byte) (s : State), ExecGives (Instr.ofWrite i v) s fun t =>
    t.block.tone = s.block.tone ∧ t.block.noise = s.block.noise

/-- R63: writes to different indices commute, so the state after a batch does not depend on the order of its writes. -/
def Obligations.BatchOrderIsImmaterial : Prop :=
  ∀ (ws ws' : List (Byte × Byte)) (s : State), ws.Perm ws' → (Event.batch ws).wellFormed = true →
    ∃ t, execAll ((Event.batch ws).ops.map Op.toInstr) s = .next t ∧
      execAll ((Event.batch ws').ops.map Op.toInstr) s = .next t

/-! ### Register reads -/

/-- R120: the sixteen register reads. -/
def Obligations.RegisterReads : Prop :=
  ReadsRegister .rdR0 0 ∧ ReadsRegister .rdR1 1 ∧ ReadsRegister .rdR2 2 ∧ ReadsRegister .rdR3 3 ∧
  ReadsRegister .rdR4 4 ∧ ReadsRegister .rdR5 5 ∧ ReadsRegister .rdR6 6 ∧ ReadsRegister .rdR7 7 ∧
  ReadsRegister .rdR8 8 ∧ ReadsRegister .rdR9 9 ∧ ReadsRegister .rdR10 10 ∧ ReadsRegister .rdR11 11 ∧
  ReadsRegister .rdR12 12 ∧ ReadsRegister .rdR13 13 ∧ ReadsRegister .rdR14 14 ∧ ReadsRegister .rdR15 15 ∧
  ∀ s : State, ExecAllGives [.wrR1 0xF3, .rdR1] s fun t =>
    t.reply = some 0xF3 ∧ (t.block.tonePeriod 0).toNat / 256 = 3

/-- R122: a read of an index above 15 returns some byte, which nothing here names, and changes nothing of the block. -/
def Obligations.OutOfRangeReadReturnsSomeByte : Prop :=
  ∀ idx x : Byte, 15 < idx.toNat →
    decode (BitVec.ofNat 18 (0x10000 + 256 * idx.toNat + x.toNat)) = .rdOor idx ∧
    ∀ s : State, ExecGives (.rdOor idx) s fun t =>
      (∃ b, t.reply = some b) ∧ t.block = s.block ∧ t.pending = s.pending

/-- R42, R120: whatever the operations, the bytes the host reads are the same from states that differ in the generators
alone. For the in-range reads this is the spec's. That the out-of-range reads return equal bytes in the two runs is the
model's choice: its free byte is a function of the number drawn so far (log 4, DESIGN CHOICE), while R122 lets two such
reads differ. -/
def Obligations.ReadsNeverShowGeneratorState : Prop :=
  ∀ (is : List Instr) (s s' : State), s.block.regs = s'.block.regs → s.draws = s'.draws →
    replies is s = replies is s' ∧
    ∃ t t', execAll is s = .next t ∧ execAll is s' = .next t' ∧ t.block.regs = t'.block.regs ∧ t.draws = t'.draws

/-! ### Ticks -/

/-- R132: the step of each tone generator at a tick. -/
def Obligations.ToneStepAtTick : Prop :=
  ∀ s : State, ExecGives .tick s fun t => ∀ c : Fin 3,
    ((s.block.tone[c]).cnt.toNat + 1 ≥ max 1 (s.block.tonePeriod c).toNat →
      (t.block.tone[c]).cnt.toNat = 0 ∧
      (t.block.tone[c]).phase.toNat = ((s.block.tone[c]).phase.toNat + 1) % 32) ∧
    ((s.block.tone[c]).cnt.toNat + 1 < max 1 (s.block.tonePeriod c).toNat →
      (t.block.tone[c]).cnt.toNat = (s.block.tone[c]).cnt.toNat + 1 ∧
      (t.block.tone[c]).phase = (s.block.tone[c]).phase) ∧
    (t.block.tone[c]).cnt.toNat + 1 ≤ 4095

/-- R162: the step of the noise generator at a tick. -/
def Obligations.NoiseStepAtTick : Prop :=
  ∀ s : State, ExecGives .tick s fun t =>
    (s.block.noise.cnt.toNat + 1 ≥ 2 * max 1 ((s.block.regs[6]).toNat % 32) →
      t.block.noise.cnt.toNat = 0 ∧ t.block.noise.lfsr = lfsrNext s.block.noise.lfsr) ∧
    (s.block.noise.cnt.toNat + 1 < 2 * max 1 ((s.block.regs[6]).toNat % 32) →
      t.block.noise.cnt.toNat = s.block.noise.cnt.toNat + 1 ∧ t.block.noise.lfsr = s.block.noise.lfsr) ∧
    t.block.noise.cnt.toNat + 1 ≤ 62

/-- R146, R147: the envelope counter at a tick, and the envelope step where it expires. -/
def Obligations.EnvelopeStepAtTick : Prop :=
  ∀ s : State, ExecGives .tick s fun t =>
    let e := s.block.env
    let f := t.block.env
    let eff := 2 * max 1 ((s.block.regs[12]).toNat * 256 + (s.block.regs[11]).toNat)
    f.hold = e.hold ∧ f.alt = e.alt ∧ f.cnt.toNat + 1 ≤ 131070 ∧
    (e.cnt.toNat + 1 < eff →
      f.cnt.toNat = e.cnt.toNat + 1 ∧ f.level = e.level ∧ f.up = e.up ∧ f.holding = e.holding) ∧
    (e.cnt.toNat + 1 ≥ eff → f.cnt.toNat = 0 ∧
      (e.holding = true → f.level = e.level ∧ f.up = e.up ∧ f.holding = true) ∧
      (e.holding = false → e.up = true → e.level.toNat < 15 →
        f.level.toNat = e.level.toNat + 1 ∧ f.up = true ∧ f.holding = false) ∧
      (e.holding = false → e.up = false → 0 < e.level.toNat →
        f.level.toNat = e.level.toNat - 1 ∧ f.up = false ∧ f.holding = false) ∧
      (e.holding = false → e.level.toNat = (if e.up then 15 else 0) →
        (e.hold = true → f.holding = true ∧ f.up = e.up ∧
          f.level.toNat = (if e.alt then 15 - e.level.toNat else e.level.toNat)) ∧
        (e.hold = false → e.alt = true → f.holding = false ∧ f.up = !e.up ∧ f.level = e.level) ∧
        (e.hold = false → e.alt = false → f.holding = false ∧ f.up = e.up ∧
          f.level.toNat = (if e.up then 0 else 15))))

/-- R186: a tick completes whatever its ignored bits, writes no register, no hold or alternate flag, returns nothing,
and reads only the period registers and the generators; periods 0 act as periods 1. -/
def Obligations.TickReadsPeriodsAndWritesGenerators : Prop :=
  (∀ x y : Byte, decode (OpWord.ofFields 0b10 x y) = .tick) ∧
  (∀ s : State, ExecGives .tick s fun t =>
    t.block.regs = s.block.regs ∧ t.block.env.hold = s.block.env.hold ∧ t.block.env.alt = s.block.env.alt ∧
    SameInterface s t ∧
    (∀ c : Fin 3, t.block.tone[c] = (s.block.tone[c]).step (s.block.tonePeriod c)) ∧
    t.block.noise = s.block.noise.step s.block.noisePeriod ∧ t.block.env = s.block.env.step s.block.envPeriod) ∧
  (∀ s s' : State, GeneratorsKept s s' →
    (∀ k : Fin 16, k.val ≤ 6 ∨ k.val = 11 ∨ k.val = 12 → s.block.regs[k] = s'.block.regs[k]) →
    ∃ t t', exec .tick s = .next t ∧ exec .tick s' = .next t' ∧ GeneratorsKept t t') ∧
  (∀ s s' : State, GeneratorsKept s s' →
    (∀ c, s.block.tonePeriod c = 0 ∧ s'.block.tonePeriod c = 1) →
    s.block.noisePeriod = 0 ∧ s'.block.noisePeriod = 1 → s.block.envPeriod = 0 ∧ s'.block.envPeriod = 1 →
    ∃ t t', exec .tick s = .next t ∧ exec .tick s' = .next t' ∧ GeneratorsKept t t') ∧
  ExecGives .tick State.reset fun t =>
    (∀ c : Fin 3, (t.block.tone[c]).cnt.toNat = 0 ∧ (t.block.tone[c]).phase.toNat = 1) ∧
    t.block.noise.cnt.toNat = 1 ∧ t.block.noise.lfsr.toNat = 0x1FFFF ∧
    t.block.env.cnt.toNat = 1 ∧ t.block.env.level.toNat = 15

/-- R187: the five generator steps may be done in any order, or all at once from the state before the tick. -/
def Obligations.GeneratorStepsCommute : Prop :=
  ∀ (order : List GenStep) (s : State), order.Perm [.tone 0, .tone 1, .tone 2, .noise, .env] →
    ExecGives .tick s fun t =>
      t.block = order.foldl Block.genStep s.block ∧
      t.block = { s.block with
        tone := #v[(s.block.genStep (.tone 0)).tone[0], (s.block.genStep (.tone 1)).tone[1],
          (s.block.genStep (.tone 2)).tone[2]]
        noise := (s.block.genStep .noise).noise
        env := (s.block.genStep .env).env }

/-- R38, R151, R162: after a tick from any state every counter is below the effective period in force at it. -/
def Obligations.TickBoundsEveryCounter : Prop :=
  ∀ s : State, ExecGives .tick s fun t =>
    (∀ c : Fin 3, (t.block.tone[c]).cnt.toNat < max 1 (s.block.tonePeriod c).toNat) ∧
    t.block.noise.cnt.toNat < 2 * max 1 s.block.noisePeriod.toNat ∧
    t.block.env.cnt.toNat < 2 * max 1 s.block.envPeriod.toNat

/-- R137: as long as the period of channel c is not written and nothing resets, its tone bit is a square wave that
toggles every max(1, TP) ticks, whatever the host does between the ticks. -/
def Obligations.ToneIsASquareWave : Prop :=
  ∀ (is : List Instr) (s : State) (c : Fin 3), (s.block.tone[c]).cnt = 0 →
    LeavesRegister ⟨2 * c.val, by omega⟩ is → LeavesRegister ⟨2 * c.val + 1, by omega⟩ is →
    ExecAllGives is s fun t =>
      t.block.toneBit c = (s.block.toneBit c ^^ oddBit (is.count .tick / max 1 (s.block.tonePeriod c).toNat))

/-- R152, R153: after a load the envelope steps exactly every 2 x max(1, EP) ticks through the sequence of its shape,
and stops at step 16 unless the shape runs for ever, as long as neither the period nor the shape is written and nothing
resets. -/
def Obligations.EnvelopeTrajectoryFromLoad : Prop :=
  ∀ (v : Byte) (is : List Instr) (s : State),
    LeavesRegister 11 is → LeavesRegister 12 is → LeavesRegister 13 is →
    ExecAllGives (.wrR13 v :: is) s fun t =>
      let steps := is.count .tick / (2 * max 1 s.block.envPeriod.toNat)
      t.block.env.level.toNat = trajectory (v.toNat % 16) steps ∧
      t.block.env.holding = (!runsForEver (v.toNat % 16) && decide (16 ≤ steps))

/-- R150: once the envelope holds, only a write of the shape register or a reset changes its level and flags. -/
def Obligations.HoldingIsFinal : Prop :=
  (∀ (is : List Instr) (s : State), s.block.env.holding = true →
    (∀ i ∈ is, i ≠ .reset ∧ ∀ v, i ≠ .wrR13 v) →
    ExecAllGives is s fun t =>
      t.block.env.level = s.block.env.level ∧ t.block.env.up = s.block.env.up ∧
      t.block.env.hold = s.block.env.hold ∧ t.block.env.alt = s.block.env.alt ∧ t.block.env.holding = true) ∧
  ∀ (i : Instr) (s : State), (i = .reset ∨ ∃ v, i = .wrR13 v) →
    ExecGives i s fun t => t.block.env.holding = false

/-- R154: shapes with equal normal forms leave the same generator state for ever, and so the same outputs; the blocks
differ at most in the byte of the shape register. -/
def Obligations.EqualNormalShapesAreEquivalent : Prop :=
  normShape 0x00 = normShape 0x09 ∧ normShape 0x04 = normShape 0x0F ∧
  ∀ (v w : Byte) (is : List Instr) (s : State), normShape v = normShape w →
    ∃ t u, execAll (.wrR13 v :: is) s = .next t ∧ execAll (.wrR13 w :: is) s = .next u ∧
      GeneratorsKept t u ∧ OtherRegsKept 13 t u ∧ ∀ cfg, t.block.outputs cfg = u.block.outputs cfg

/-- R136 (d), (e), R155, R164 (d): under any operations each generator depends on its own state and its own period
registers alone. -/
def Obligations.GeneratorsAreIndependent : Prop :=
  ∀ (is : List Instr) (s s' : State), ∃ t t', execAll is s = .next t ∧ execAll is s' = .next t' ∧
    (∀ c : Fin 3, s.block.tone[c] = s'.block.tone[c] →
      s.block.regs[2 * c.val]'(by omega) = s'.block.regs[2 * c.val]'(by omega) →
      s.block.regs[2 * c.val + 1]'(by omega) = s'.block.regs[2 * c.val + 1]'(by omega) →
      t.block.tone[c] = t'.block.tone[c]) ∧
    (s.block.noise = s'.block.noise → s.block.regs[6] = s'.block.regs[6] → t.block.noise = t'.block.noise) ∧
    (s.block.env = s'.block.env → s.block.regs[11] = s'.block.regs[11] → s.block.regs[12] = s'.block.regs[12] →
      t.block.env = t'.block.env)

/-! ### Noise -/

/-- R163: the shift register's update, and the recurrence of the output sequence. -/
def Obligations.ShiftRegisterUpdate : Prop :=
  (∀ x : BitVec 17, (lfsrNext x).toNat = (x.toNat + x.toNat / 8) % 2 * 65536 + x.toNat / 2) ∧
  ∀ (x : BitVec 17) (t : Nat),
    (lfsrNext^[t + 17] x).getLsbD 0 = ((lfsrNext^[t] x).getLsbD 0 ^^ (lfsrNext^[t + 3] x).getLsbD 0)

/-- R166: the update is a bijection with the inverse the rule gives, only 0 maps to 0, and no operation ever brings a
shift register that is not 0 to 0. -/
def Obligations.ShiftRegisterIsNeverZero : Prop :=
  Function.Bijective lfsrNext ∧
  (∀ x : BitVec 17, x.toNat / 2 = (lfsrNext x).toNat % 65536 ∧
    x.getLsbD 0 = ((lfsrNext x).getLsbD 16 ^^ (lfsrNext x).getLsbD 2)) ∧
  (∀ x : BitVec 17, lfsrNext x = 0 ↔ x = 0) ∧
  ∀ (is : List Instr) (s : State), s.block.noise.lfsr ≠ 0 → ExecAllGives is s fun t => t.block.noise.lfsr ≠ 0

/-- R167: the nonzero values lie on one cycle, on which the shift register, and its output bit, have period exactly
131071; in ticks, 131071 noise periods. -/
def Obligations.NoisePeriodIsExact : Prop :=
  (∀ (x : BitVec 17) (n : Nat), x ≠ 0 → (lfsrNext^[n] x = x ↔ 131071 ∣ n)) ∧
  (∀ x y : BitVec 17, x ≠ 0 → y ≠ 0 → ∃ n, lfsrNext^[n] x = y) ∧
  (∀ (x : BitVec 17) (n : Nat), x ≠ 0 →
    ((∀ k, (lfsrNext^[k + n] x).getLsbD 0 = (lfsrNext^[k] x).getLsbD 0) ↔ 131071 ∣ n)) ∧
  ∀ (is : List Instr) (s : State), s.block.noise.cnt.toNat < 2 * max 1 s.block.noisePeriod.toNat →
    LeavesRegister 6 is → is.count .tick = 131071 * (2 * max 1 s.block.noisePeriod.toNat) →
    ExecAllGives is s fun t => t.block.noise = s.block.noise

/-! ### Outputs -/

/-- R171 to R174: enables by the polarity, gate, level and output code, from the stored bytes. -/
def Obligations.OutputFormula : Prop :=
  ∀ (cfg : Config) (b : Block) (c : Fin 3),
    b.toneEnabled cfg c = (oddBit ((b.regs[7]).toNat / 2 ^ c.val) != cfg.mixerActiveLow) ∧
    b.noiseEnabled cfg c = (oddBit ((b.regs[7]).toNat / 2 ^ (3 + c.val)) != cfg.mixerActiveLow) ∧
    b.gate cfg c =
      ((!b.toneEnabled cfg c || oddBit (b.tone[c]).phase.toNat) &&
        (!b.noiseEnabled cfg c || oddBit b.noise.lfsr.toNat)) ∧
    (b.level c).toNat = (if (b.regs[8 + c.val]'(by omega)).toNat / 16 % 2 = 1 then b.env.level.toNat
      else (b.regs[8 + c.val]'(by omega)).toNat % 16) ∧
    b.out cfg c = (if b.gate cfg c then cfg.voltab (b.level c).toFin else 0) ∧
    (b.outputs cfg)[c] = b.out cfg c

/-- R180: the laws of the outputs. -/
def Obligations.OutputLaws : Prop :=
  (∀ (cfg : Config) (b : Block) (c : Fin 3), b.out cfg c = 0 ∨ ∃ l : Fin 16, b.out cfg c = cfg.voltab l) ∧
  (∀ (cfg : Config) (b b' : Block) (c : Fin 3),
    (b.regs[7]).getLsbD c.val = (b'.regs[7]).getLsbD c.val →
    (b.regs[7]).getLsbD (3 + c.val) = (b'.regs[7]).getLsbD (3 + c.val) →
    (b.regs[8 + c.val]'(by omega)).toNat % 32 = (b'.regs[8 + c.val]'(by omega)).toNat % 32 →
    (b.tone[c]).phase.toNat % 2 = (b'.tone[c]).phase.toNat % 2 →
    b.noise.lfsr.toNat % 2 = b'.noise.lfsr.toNat % 2 → b.env.level = b'.env.level →
    b.out cfg c = b'.out cfg c) ∧
  (∀ (cfg : Config) (b : Block) (c : Fin 3), cfg.mixerActiveLow = true → b.regs[7] = 0x3F →
    b.out cfg c = cfg.voltab (b.level c).toFin) ∧
  (∀ (cfg : Config) (b : Block) (c : Fin 3), b.regs[8 + c.val]'(by omega) = 0x00 →
    b.out cfg c = 0 ∨ b.out cfg c = cfg.voltab 0) ∧
  ∀ (cfg : Config) (b b' : Block) (c : Fin 3), b.gate cfg c = true → b'.gate cfg c = true →
    (b.level c).toNat ≤ (b'.level c).toNat → b.out cfg c ≤ b'.out cfg c

/-- R179: which writes can change an output with no tick between. -/
def Obligations.WritesThatChangeOutputs : Prop :=
  (∀ (cfg : Config) (i v : Byte) (s : State), i ≠ 7 → i ≠ 8 → i ≠ 9 → i ≠ 10 → i ≠ 13 →
    ExecGives (Instr.ofWrite i v) s fun t => t.block.outputs cfg = s.block.outputs cfg) ∧
  ∀ i : Byte, i = 7 ∨ i = 8 ∨ i = 9 ∨ i = 10 ∨ i = 13 →
    ∃ (cfg : Config) (v : Byte) (s : State), s.Inv ∧
      ExecGives (Instr.ofWrite i v) s fun t => t.block.outputs cfg ≠ s.block.outputs cfg

/-- R222: the derived signals in the reset state, for both polarities. -/
def Obligations.ResetSignals : Prop :=
  ∀ (cfg : Config) (c : Fin 3),
    let b := State.reset.block
    b.tonePeriod c = 0 ∧ b.noisePeriod = 0 ∧ b.envPeriod = 0 ∧ effTonePeriod (b.tonePeriod c) = 1 ∧
    effNoisePeriod b.noisePeriod = 2 ∧ effEnvPeriod b.envPeriod = 2 ∧
    b.toneBit c = false ∧ b.noiseBit = true ∧ b.level c = 0 ∧ b.envSelect c = false ∧
    (cfg.mixerActiveLow = true → b.toneEnabled cfg c = true ∧ b.noiseEnabled cfg c = true ∧
      b.gate cfg c = false ∧ b.out cfg c = 0) ∧
    (cfg.mixerActiveLow = false → b.toneEnabled cfg c = false ∧ b.noiseEnabled cfg c = false ∧
      b.gate cfg c = true ∧ b.out cfg c = cfg.voltab 0)

/-- R223: n ticks from the reset state without programming. -/
def Obligations.UnprogrammedRun : Prop :=
  ∀ n : Nat, ∃ t, tickMany n State.reset = .next t ∧
    (∀ c : Fin 3, t.block.toneBit c = oddBit n) ∧
    t.block.noise.lfsr = lfsrNext^[n / 2] 0x1FFFF ∧
    t.block.env.level.toNat = 15 - n / 2 ∧ t.block.env.holding = decide (32 ≤ n) ∧
    ∀ (cfg : Config) (c : Fin 3), cfg.mixerActiveLow = true →
      t.block.out cfg c = if oddBit n && (lfsrNext^[n / 2] 0x1FFFF).getLsbD 0 then cfg.voltab 0 else 0

/-- R225: with all inputs off and fixed levels 0 every output is `VOLTAB[0]`, through any number of ticks. -/
def Obligations.QuietStateIsConstant : Prop :=
  ∀ (cfg : Config) (s : State) (n : Nat), cfg.mixerActiveLow = true →
    ∃ t, execAll ([.wrR7 0x3F, .wrR8 0x00, .wrR9 0x00, .wrR10 0x00] ++ List.replicate n .tick) s = .next t ∧
      ∀ c : Fin 3, t.block.out cfg c = cfg.voltab 0

/-! ### Reset and invariants -/

/-- R46: the reset state, at power-on and after `RESET`. -/
def Obligations.ResetTable : Prop :=
  HoldsResetTable State.reset.block ∧
  ∀ s : State, ExecGives .reset s fun t => HoldsResetTable t.block

/-- R190: `RESET`. -/
def Obligations.ResetRestoresEverything : Prop :=
  (∀ x y : Byte, decode (OpWord.ofFields 0b11 x y) = .reset) ∧ encode .reset = 0x30000 ∧
  Op.agent .reset = .host ∧ Event.ops .reset = [.reset] ∧
  (∀ s : State, ExecGives .reset s fun t => HoldsResetTable t.block ∧ SameInterface s t) ∧
  (∀ s : State, execAll [.reset, .reset] s = execAll [.reset] s) ∧
  (∀ s s' : State, ∃ t t', exec .reset s = .next t ∧ exec .reset s' = .next t' ∧ t.block = t'.block) ∧
  (∀ (i : Instr) (s : State), i ≠ .reset → i ≠ .tick → ExecGives i s fun t =>
    t.block.tone = s.block.tone ∧ t.block.noise = s.block.noise) ∧
  (∀ (i : Instr) (s : State), i ≠ .reset → ExecGives i s fun t =>
    t.block.noise.lfsr = s.block.noise.lfsr ∨ t.block.noise.lfsr = lfsrNext s.block.noise.lfsr) ∧
  ∀ s : State, ExecAllGives [.reset, .rdR7] s fun t => t.reply = some 0x00

/-- The reset state satisfies the invariant. -/
def Obligations.ResetHasTheInvariant : Prop := State.reset.Inv

/-- R38, R39, R40, R149, R151, R166: the invariant is kept by every step and every operation, from every state that
has it. -/
def Obligations.EveryStepKeepsTheInvariant : Prop :=
  (∀ s : State, s.Inv → ∃ t, step s = .next t ∧ t.Inv) ∧
  ∀ (i : Instr) (s : State), s.Inv → ExecGives i s State.Inv

/-! ### Hosts: batches, interleaving, pseudo-operations, two chips -/

/-- R62, R186: how the tick source's operations fall between the host's changes no register and no byte the host
reads. For the bytes of out-of-range reads this is the model's choice: its free byte is a function of the number drawn
so far, which no tick advances (log 4, DESIGN CHOICE), while R122 leaves that byte unspecified at each read. -/
def Obligations.InterleavingLeavesTheRegisters : Prop :=
  ∀ (host : List Event) (sch : Schedule) (s : State), Schedule.admits host sch = true →
    replies ((Schedule.ops sch).map Op.toInstr) s = replies ((Schedule.ops host).map Op.toInstr) s ∧
    ∃ t u, execAll ((Schedule.ops sch).map Op.toInstr) s = .next t ∧
      execAll ((Schedule.ops host).map Op.toInstr) s = .next u ∧
      t.block.regs = u.block.regs ∧ t.draws = u.draws

/-- R87: `WRTP`, `WREP` and `TICK n`, assembled and run step by step. -/
def Obligations.PseudoOperationsExpand : Prop :=
  (∀ (c : Fin 3) (p : BitVec 12) (s : State), s.pending = assemble [.write (.tonePeriod c p)] →
    ∃ t, stepMany 2 s = .next t ∧ t.pending = [] ∧ t.block.tonePeriod c = p ∧ GeneratorsKept s t ∧
      ∀ k : Fin 16, k.val ≠ 2 * c.val → k.val ≠ 2 * c.val + 1 → t.block.regs[k] = s.block.regs[k]) ∧
  (∀ (p : BitVec 16) (s : State), s.pending = assemble [.write (.envPeriod p)] →
    ∃ t, stepMany 2 s = .next t ∧ t.pending = [] ∧ t.block.envPeriod = p ∧ GeneratorsKept s t ∧
      ∀ k : Fin 16, k.val ≠ 11 → k.val ≠ 12 → t.block.regs[k] = s.block.regs[k]) ∧
  ∀ (n : Nat) (s : State), s.pending = assemble [.ticks n] →
    stepMany n s = tickMany n { s with pending := [] }

/-- R230: a tick between the two writes of a period, of a tone or of the envelope, compares the count against the mixed
period; with both writes before the tick it does not. The bounds on the counts are the invariant's. -/
def Obligations.TornPeriodPair : Prop :=
  (∀ (c : Fin 3) (lo hi : Byte) (s : State), (s.block.tone[c]).cnt.toNat ≤ 4094 →
    let wrLo := Instr.ofWrite (BitVec.ofNat 8 (2 * c.val)) lo
    let wrHi := Instr.ofWrite (BitVec.ofNat 8 (2 * c.val + 1)) hi
    let old := (s.block.tonePeriod c).toNat
    let new := hi.toNat % 16 * 256 + lo.toNat
    (ExecAllGives [wrLo, .tick, wrHi] s fun t =>
      CountsTone c (old / 256 * 256 + lo.toNat) s t ∧ (t.block.tonePeriod c).toNat = new) ∧
    (ExecAllGives [wrHi, .tick, wrLo] s fun t =>
      CountsTone c (hi.toNat % 16 * 256 + old % 256) s t ∧ (t.block.tonePeriod c).toNat = new) ∧
    ExecAllGives [wrLo, wrHi, .tick] s fun t => CountsTone c new s t ∧ (t.block.tonePeriod c).toNat = new) ∧
  ∀ (lo hi : Byte) (s : State), s.block.env.cnt.toNat ≤ 131069 →
    let old := s.block.envPeriod.toNat
    let new := hi.toNat * 256 + lo.toNat
    (ExecAllGives [.wrR11 lo, .tick, .wrR12 hi] s fun t =>
      CountsEnvelope (old / 256 * 256 + lo.toNat) s t ∧ t.block.envPeriod.toNat = new) ∧
    (ExecAllGives [.wrR12 hi, .tick, .wrR11 lo] s fun t =>
      CountsEnvelope (hi.toNat * 256 + old % 256) s t ∧ t.block.envPeriod.toNat = new) ∧
    ExecAllGives [.wrR11 lo, .wrR12 hi, .tick] s fun t => CountsEnvelope new s t ∧ t.block.envPeriod.toNat = new

/-- R212: two chips share no state: after any interleaving each is where its own steps alone bring it. That this holds
of the replies of out-of-range reads too is the model's choice (logs 4 and 17, DESIGN CHOICE): each chip draws its free
bytes by its own counter. -/
def Obligations.TwoChipsAreIndependent : Prop :=
  ∀ (ks : List Chip) (d : TurboSound), ∃ t0 t1,
    stepMany (ks.count .chip0) d.chip0 = .next t0 ∧ stepMany (ks.count .chip1) d.chip1 = .next t1 ∧
    TurboSound.stepAll ks d = .next { chip0 := t0, chip1 := t1 }
end

