-- ==== Sys2Proof/Laws/Decode.lean ====
section
/-! SUPPORT. The fields of an operation word built from fields, and the abstract operation of an instruction. -/

namespace Sys2Proof

/-- A bit of a built word: of the value below 8, of the index below 16, of the tag above (R71). -/
theorem OpWord.getLsbD_ofFields (t : BitVec 2) (i v : Byte) (k : Nat) :
    (OpWord.ofFields t i v).getLsbD k =
      if k < 8 then v.getLsbD k else if k < 16 then i.getLsbD (k - 8) else t.getLsbD (k - 16) := by
  simp only [OpWord.ofFields, BitVec.getLsbD_append, Nat.sub_sub]
  by_cases h : k < 8
  · simp [h]
  · have e : (k - 8 < 8) ↔ k < 16 := by omega
    simp [h, e]

@[simp] theorem OpWord.tag_ofFields (t : BitVec 2) (i v : Byte) : (OpWord.ofFields t i v).tag = t := by
  ext k hk
  have h1 : ¬ (16 + k < 8) := by omega
  have h2 : ¬ (16 + k < 16) := by omega
  simp [OpWord.tag, OpWord.getLsbD_ofFields, h1, hk]

@[simp] theorem OpWord.idx_ofFields (t : BitVec 2) (i v : Byte) : (OpWord.ofFields t i v).idx = i := by
  ext k hk
  have h1 : ¬ (8 + k < 8) := by omega
  have h2 : 8 + k < 16 := by omega
  simp [OpWord.idx, OpWord.getLsbD_ofFields, h2, hk]

@[simp] theorem OpWord.val_ofFields (t : BitVec 2) (i v : Byte) : (OpWord.ofFields t i v).val = v := by
  ext k hk
  simp [OpWord.val, OpWord.getLsbD_ofFields, hk]

/-- Built words are masked field by field. -/
theorem OpWord.and_ofFields (t t' : BitVec 2) (i i' v v' : Byte) :
    OpWord.ofFields t i v &&& OpWord.ofFields t' i' v' = OpWord.ofFields (t &&& t') (i &&& i') (v &&& v') := by
  apply BitVec.eq_of_getLsbD_eq
  intro k _
  simp only [BitVec.getLsbD_and, OpWord.getLsbD_ofFields]
  split_ifs <;> rfl

/-- What the masks of the opcode table keep of a built word (R88). -/
theorem OpWord.mask_ofFields (t : BitVec 2) (i v : Byte) :
    OpWord.ofFields t i v &&& 0x3FF00 = OpWord.ofFields t i 0 ∧
      OpWord.ofFields t i v &&& 0x30000 = OpWord.ofFields t 0 0 := by
  have hm : (0x3FF00 : OpWord) = OpWord.ofFields 0b11#2 0xFF#8 0x00#8 := by decide
  have hn : (0x30000 : OpWord) = OpWord.ofFields 0b11#2 0x00#8 0x00#8 := by decide
  have ht : ∀ t : BitVec 2, t &&& 0b11#2 = t := by decide
  have hi : ∀ i : Byte, i &&& 0xFF#8 = i := by decide
  have hz : ∀ i : Byte, i &&& 0x00#8 = 0 := by decide
  constructor
  · rw [hm, OpWord.and_ofFields, ht, hi, hz]
  · rw [hn, OpWord.and_ofFields, ht, hz, hz]

/-- A write's row stands for that write again (R74). -/
theorem Instr.toOp_ofWrite (i v : Byte) : (Instr.ofWrite i v).toOp = .wr i v := by
  unfold Instr.ofWrite
  split
  case h_17 => rfl
  all_goals
    rename_i h
    simp only [Instr.toOp, Op.wr.injEq, and_true]
    exact BitVec.eq_of_toNat_eq h.symm

/-- A read's row stands for that read again (R74). -/
theorem Instr.toOp_ofRead (i : Byte) : (Instr.ofRead i).toOp = .rd i := by
  unfold Instr.ofRead
  split
  case h_17 => rfl
  all_goals
    rename_i h
    simp only [Instr.toOp, Op.rd.injEq]
    exact BitVec.eq_of_toNat_eq h.symm

end Sys2Proof
end

