-- ==== Sys2Proof/Laws/State.lean ====
section
/-! SUPPORT. One lemma for each field under each update of the state, each true by rfl and a simp lemma, so that no
later proof unfolds a record update. -/

namespace Sys2Proof.Machine

variable (b : Block) (s : State) (f : Block → Block) (i : Fin 16) (v : Byte)

/-! ### Updates of the block -/

@[simp] theorem Block.store_regs : (b.store i v).regs = b.regs.set i v := rfl
@[simp] theorem Block.store_tone : (b.store i v).tone = b.tone := rfl
@[simp] theorem Block.store_noise : (b.store i v).noise = b.noise := rfl
@[simp] theorem Block.store_env : (b.store i v).env = b.env := rfl

@[simp] theorem Block.loadEnvelope_regs : (b.loadEnvelope v).regs = b.regs := rfl
@[simp] theorem Block.loadEnvelope_tone : (b.loadEnvelope v).tone = b.tone := rfl
@[simp] theorem Block.loadEnvelope_noise : (b.loadEnvelope v).noise = b.noise := rfl
@[simp] theorem Block.loadEnvelope_env : (b.loadEnvelope v).env = Envelope.load v := rfl

@[simp] theorem Block.genStep_tone_regs (c : Fin 3) : (b.genStep (.tone c)).regs = b.regs := rfl
@[simp] theorem Block.genStep_tone_tone (c : Fin 3) :
    (b.genStep (.tone c)).tone = b.tone.set c ((b.tone[c]).step (b.tonePeriod c)) := rfl
@[simp] theorem Block.genStep_tone_noise (c : Fin 3) : (b.genStep (.tone c)).noise = b.noise := rfl
@[simp] theorem Block.genStep_tone_env (c : Fin 3) : (b.genStep (.tone c)).env = b.env := rfl
@[simp] theorem Block.genStep_noise_regs : (b.genStep .noise).regs = b.regs := rfl
@[simp] theorem Block.genStep_noise_tone : (b.genStep .noise).tone = b.tone := rfl
@[simp] theorem Block.genStep_noise_noise : (b.genStep .noise).noise = b.noise.step b.noisePeriod := rfl
@[simp] theorem Block.genStep_noise_env : (b.genStep .noise).env = b.env := rfl
@[simp] theorem Block.genStep_env_regs : (b.genStep .env).regs = b.regs := rfl
@[simp] theorem Block.genStep_env_tone : (b.genStep .env).tone = b.tone := rfl
@[simp] theorem Block.genStep_env_noise : (b.genStep .env).noise = b.noise := rfl
@[simp] theorem Block.genStep_env_env : (b.genStep .env).env = b.env.step b.envPeriod := rfl

@[simp] theorem Block.resetAll_regs : b.resetAll.regs = Vector.replicate 16 0 := rfl
@[simp] theorem Block.resetAll_tone : b.resetAll.tone = Vector.replicate 3 ⟨0, 0⟩ := rfl
@[simp] theorem Block.resetAll_noise : b.resetAll.noise = ⟨0, noiseSeed⟩ := rfl
@[simp] theorem Block.resetAll_env : b.resetAll.env = Envelope.load 0 := rfl

/-! ### Updates of the state -/

@[simp] theorem State.act_block : (s.act f).block = f s.block := rfl
@[simp] theorem State.act_pending : (s.act f).pending = s.pending := rfl
@[simp] theorem State.act_reply : (s.act f).reply = none := rfl
@[simp] theorem State.act_draws : (s.act f).draws = s.draws := rfl

@[simp] theorem State.writeReg_block : (s.writeReg i v).block = s.block.store i v := rfl
@[simp] theorem State.writeReg_pending : (s.writeReg i v).pending = s.pending := rfl
@[simp] theorem State.writeReg_reply : (s.writeReg i v).reply = none := rfl
@[simp] theorem State.writeReg_draws : (s.writeReg i v).draws = s.draws := rfl

@[simp] theorem State.writeShape_block : (s.writeShape v).block = (s.block.store regEnvShape v).loadEnvelope v := rfl
@[simp] theorem State.writeShape_pending : (s.writeShape v).pending = s.pending := rfl
@[simp] theorem State.writeShape_reply : (s.writeShape v).reply = none := rfl
@[simp] theorem State.writeShape_draws : (s.writeShape v).draws = s.draws := rfl

@[simp] theorem State.dropWrite_block : s.dropWrite.block = s.block := rfl
@[simp] theorem State.dropWrite_pending : s.dropWrite.pending = s.pending := rfl
@[simp] theorem State.dropWrite_reply : s.dropWrite.reply = none := rfl
@[simp] theorem State.dropWrite_draws : s.dropWrite.draws = s.draws := rfl

@[simp] theorem State.readReg_block : (s.readReg i).block = s.block := rfl
@[simp] theorem State.readReg_pending : (s.readReg i).pending = s.pending := rfl
@[simp] theorem State.readReg_reply : (s.readReg i).reply = some (s.block.read i) := rfl
@[simp] theorem State.readReg_draws : (s.readReg i).draws = s.draws := rfl

@[simp] theorem State.readFree_block : s.readFree.block = s.block := rfl
@[simp] theorem State.readFree_pending : s.readFree.pending = s.pending := rfl
@[simp] theorem State.readFree_reply : s.readFree.reply = some (Config.freeByte s.draws) := rfl
@[simp] theorem State.readFree_draws : s.readFree.draws = s.draws + 1 := rfl

/-- With nothing pending there is nothing to fetch. -/
theorem State.fetch_of_nil (h : s.pending = []) : s.fetch = none := by simp [State.fetch, h]

/-- The fetch takes the first pending word and leaves the rest. -/
theorem State.fetch_of_cons (w : OpWord) (rest : List OpWord) (h : s.pending = w :: rest) :
    s.fetch = some (w, { s with pending := rest }) := by simp [State.fetch, h]

/-- An operation word put in front is the first pending one; the rest of the state is unchanged. -/
theorem State.issue_of_lt (n : Nat) (h : n < 2 ^ 18) :
    s.issue n = { s with pending := BitVec.ofNat 18 n :: s.pending } := if_pos h

end Sys2Proof.Machine
end

