-- ==== Sys2Proof/Laws/Ops.lean ====
section
/-! SUPPORT. For each shared operation what it can do, said once: the register file, the operands, the generator
steps, the tick and the reset. -/

namespace Sys2Proof.Machine

/-! ### The register file -/

/-- A stored register reads back. -/
@[simp] theorem Block.store_get_same (b : Block) (i : Fin 16) (v : Byte) : (b.store i v).regs[i] = v := by
  simp [Block.store]

/-- A store leaves every other register alone. -/
theorem Block.store_get_other (b : Block) (i j : Fin 16) (v : Byte) (h : j ≠ i) :
    (b.store i v).regs[j] = b.regs[j] := by
  have : i.val ≠ j.val := fun e => h (Fin.ext e.symm)
  simp [Block.store, this]

/-- Reading any register after a store. -/
theorem Block.store_get (b : Block) (i j : Fin 16) (v : Byte) :
    (b.store i v).regs[j] = if j = i then v else b.regs[j] := by
  by_cases h : j = i
  · subst h; simp
  · simp only [h, if_false, Block.store_get_other b i j v h]

/-- Storing what a register holds changes nothing. -/
theorem Block.store_held (b : Block) (i : Fin 16) : b.store i b.regs[i] = b := by
  simp [Block.store]

/-! ### Operands as numbers -/

/-- `TP(c) = (R[2c+1] & 0x0F) << 8 | R[2c]` (R76). -/
theorem Block.tonePeriod_toNat (b : Block) (c : Fin 3) :
    (b.tonePeriod c).toNat =
      (b.regs[regTonePeriodH c]).toNat % 16 * 256 + (b.regs[regTonePeriodL c]).toNat := by
  have hl := (b.regs[regTonePeriodL c]).isLt
  simp only [Block.tonePeriod, BitVec.toNat_append, BitVec.extractLsb'_toNat, Nat.shiftRight_zero]
  rw [← Nat.shiftLeft_add_eq_or_of_lt hl, Nat.shiftLeft_eq]

/-- `NP = R[6] & 0x1F` (R76). -/
theorem Block.noisePeriod_toNat (b : Block) : b.noisePeriod.toNat = (b.regs[regNoisePeriod]).toNat % 32 := by
  simp [Block.noisePeriod, BitVec.extractLsb'_toNat]

/-- `EP = R[12] << 8 | R[11]` (R76). -/
theorem Block.envPeriod_toNat (b : Block) :
    b.envPeriod.toNat = (b.regs[regEnvPeriodH]).toNat * 256 + (b.regs[regEnvPeriodL]).toNat := by
  have hl := (b.regs[regEnvPeriodL]).isLt
  simp only [Block.envPeriod, BitVec.toNat_append]
  rw [← Nat.shiftLeft_add_eq_or_of_lt hl, Nat.shiftLeft_eq]

/-- `LVL(c) = R[8+c] & 0x0F` (R76). -/
theorem Block.fixedLevel_toNat (b : Block) (c : Fin 3) :
    (b.fixedLevel c).toNat = (b.regs[regVolume c]).toNat % 16 := by
  simp [Block.fixedLevel, BitVec.extractLsb'_toNat]

/-- `TPeff` is in 1..4095 (R131). -/
theorem effTonePeriod_bounds (tp : BitVec 12) : 1 ≤ effTonePeriod tp ∧ effTonePeriod tp ≤ 4095 := by
  have := tp.isLt; simp only [effTonePeriod]; omega

/-- `NPeff` is in 2..62 (R161). -/
theorem effNoisePeriod_bounds (np : BitVec 5) : 2 ≤ effNoisePeriod np ∧ effNoisePeriod np ≤ 62 := by
  have := np.isLt; simp only [effNoisePeriod, noiseStepMul]; omega

/-- `EPeff` is in 2..131070 (R145). -/
theorem effEnvPeriod_bounds (ep : BitVec 16) : 2 ≤ effEnvPeriod ep ∧ effEnvPeriod ep ≤ 131070 := by
  have := ep.isLt; simp only [effEnvPeriod, envStepMul]; omega

/-! ### Generator steps -/

/-- A tone generator's tick is an expiry when the count reaches the period (R132). -/
theorem Tone.step_of_ge (tp : BitVec 12) (t : Tone) (h : effTonePeriod tp ≤ t.cnt.toNat + 1) :
    t.step tp = { cnt := 0, phase := BitVec.ofNat 5 ((t.phase.toNat + 1) % 32) } := by
  simp [Tone.step, h]

/-- Below the period a tone generator counts on, and the count fits its width (R132). -/
theorem Tone.step_of_lt (tp : BitVec 12) (t : Tone) (h : t.cnt.toNat + 1 < effTonePeriod tp) :
    ((t.step tp).cnt).toNat = t.cnt.toNat + 1 ∧ (t.step tp).phase = t.phase := by
  have := effTonePeriod_bounds tp
  have hn : ¬ effTonePeriod tp ≤ t.cnt.toNat + 1 := by omega
  simp only [Tone.step, ge_iff_le, hn, if_false, BitVec.toNat_ofNat]
  exact ⟨Nat.mod_eq_of_lt (by omega), trivial⟩

/-- The noise generator shifts when the count reaches the period (R162). -/
theorem Noise.step_of_ge (np : BitVec 5) (g : Noise) (h : effNoisePeriod np ≤ g.cnt.toNat + 1) :
    g.step np = { cnt := 0, lfsr := lfsrNext g.lfsr } := by
  simp [Noise.step, h]

/-- Below the period the noise generator counts on (R162). -/
theorem Noise.step_of_lt (np : BitVec 5) (g : Noise) (h : g.cnt.toNat + 1 < effNoisePeriod np) :
    ((g.step np).cnt).toNat = g.cnt.toNat + 1 ∧ (g.step np).lfsr = g.lfsr := by
  have := effNoisePeriod_bounds np
  have hn : ¬ effNoisePeriod np ≤ g.cnt.toNat + 1 := by omega
  simp only [Noise.step, ge_iff_le, hn, if_false, BitVec.toNat_ofNat]
  exact ⟨Nat.mod_eq_of_lt (by omega), trivial⟩

/-- The envelope counter expires when the count reaches the period, and an envelope step follows (R146). -/
theorem Envelope.step_of_ge (ep : BitVec 16) (e : Envelope) (h : effEnvPeriod ep ≤ e.cnt.toNat + 1) :
    e.step ep = ({ e with cnt := 0 } : Envelope).levelStep := by
  simp [Envelope.step, h]

/-- Below the period the envelope counts on and nothing else changes (R146). -/
theorem Envelope.step_of_lt (ep : BitVec 16) (e : Envelope) (h : e.cnt.toNat + 1 < effEnvPeriod ep) :
    e.step ep = { e with cnt := BitVec.ofNat 17 (e.cnt.toNat + 1) } ∧
      ((e.step ep).cnt).toNat = e.cnt.toNat + 1 := by
  have := effEnvPeriod_bounds ep
  have hn : ¬ effEnvPeriod ep ≤ e.cnt.toNat + 1 := by omega
  simp only [Envelope.step, ge_iff_le, hn, if_false, BitVec.toNat_ofNat, true_and]
  exact Nat.mod_eq_of_lt (by omega)

/-- The cases of one envelope step (R147). -/
theorem Envelope.levelStep_cases (e : Envelope) :
    (e.holding = true ∧ e.levelStep = e) ∨
    (e.holding = false ∧ e.up = true ∧ e.level < topLevel ∧ e.levelStep = { e with level := e.level + 1 }) ∨
    (e.holding = false ∧ e.up = false ∧ 0 < e.level ∧ e.levelStep = { e with level := e.level - 1 }) ∨
    (e.holding = false ∧ e.level = (if e.up then topLevel else 0) ∧ e.levelStep = e.saturate) := by
  have hend : ∀ l : BitVec 4, (¬ l < topLevel → l = topLevel) ∧ (¬ 0 < l → l = 0) := by decide
  obtain ⟨h1, h2⟩ := hend e.level
  cases hh : e.holding with
  | true => exact .inl ⟨rfl, by rw [Envelope.levelStep, hh]; rfl⟩
  | false =>
    cases hu : e.up with
    | true =>
      by_cases h3 : e.level < topLevel
      · exact .inr (.inl ⟨rfl, rfl, h3, by simp [Envelope.levelStep, hh, hu, h3]⟩)
      · exact .inr (.inr (.inr ⟨rfl, h1 h3, by simp [Envelope.levelStep, hh, hu, h3]⟩))
    | false =>
      by_cases h4 : 0 < e.level
      · exact .inr (.inr (.inl ⟨rfl, rfl, h4, by simp only [Envelope.levelStep, hh, hu, h4]; rfl⟩))
      · exact .inr (.inr (.inr ⟨rfl, h2 h4, by simp only [Envelope.levelStep, hh, hu, h4]; rfl⟩))

/-- The cases of the saturating step (R149): clamp, bounce, restart. -/
theorem Envelope.saturate_cases (e : Envelope) :
    (e.hold = true ∧
      e.saturate = { e with holding := true, level := if e.alt then topLevel - e.level else e.level }) ∨
    (e.hold = false ∧ e.alt = true ∧ e.saturate = { e with up := !e.up }) ∨
    (e.hold = false ∧ e.alt = false ∧ e.saturate = { e with level := if e.up then 0 else topLevel }) := by
  unfold Envelope.saturate
  cases e.hold <;> cases e.alt <;> simp

/-- No envelope step touches the counter or the latched flags (R147). -/
@[simp] theorem Envelope.levelStep_cnt (e : Envelope) : e.levelStep.cnt = e.cnt := by
  unfold Envelope.levelStep Envelope.saturate; repeat' split
  all_goals rfl
@[simp] theorem Envelope.levelStep_hold (e : Envelope) : e.levelStep.hold = e.hold := by
  unfold Envelope.levelStep Envelope.saturate; repeat' split
  all_goals rfl
@[simp] theorem Envelope.levelStep_alt (e : Envelope) : e.levelStep.alt = e.alt := by
  unfold Envelope.levelStep Envelope.saturate; repeat' split
  all_goals rfl

/-! ### The tick and the reset of the block -/

@[simp] theorem Block.tick_regs (b : Block) : b.tick.regs = b.regs := rfl
@[simp] theorem Block.tick_noise (b : Block) : b.tick.noise = b.noise.step b.noisePeriod := rfl
@[simp] theorem Block.tick_env (b : Block) : b.tick.env = b.env.step b.envPeriod := rfl

/-- A tick steps every tone generator under its own period (R186). -/
@[simp] theorem Block.tick_tone (b : Block) (c : Fin 3) :
    (b.tick.tone)[c] = (b.tone[c]).step (b.tonePeriod c) := by
  have hp : ∀ d, (b.genStep (.tone 0)).tonePeriod d = b.tonePeriod d := fun _ => rfl
  have hq : ∀ d, ((b.genStep (.tone 0)).genStep (.tone 1)).tonePeriod d = b.tonePeriod d := fun _ => rfl
  have ht : b.tick.tone = (((b.genStep (.tone 0)).genStep (.tone 1)).genStep (.tone 2)).tone := rfl
  rw [ht]
  fin_cases c <;> simp [hp, hq]

/-- The pseudocode of R190 reaches the table of R46. -/
theorem Block.resetAll_eq_reset (b : Block) : b.resetAll = Block.reset := by
  have he : Envelope.load 0 = Block.reset.env := by decide
  simp only [Block.resetAll, Block.loadEnvelope, he]
  rfl

end Sys2Proof.Machine
end

