-- ==== Sys2Proof/Laws/PerInstr.lean ====
section
/-! SUPPORT. Statements for all instructions, one lemma for each constructor (LAWS.json, per_instruction). -/

namespace Sys2Proof.Laws.RowMatch

/-- The word of the instruction is accepted by the row of the opcode table that the instruction stands for (R88). -/
def Statement (i : Instr) : Prop := ∃ r, opcodeTable[i.rowNumber]? = some r ∧ r.accepts (encode i) = true

theorem wrR0 (val : Byte) : Statement (.wrR0 val) :=
  ⟨_, rfl, by simp only [OpcodeRow.accepts, encode, Instr.toOp, encodeOp, (OpWord.mask_ofFields _ _ _).1]; decide⟩
theorem wrR1 (val : Byte) : Statement (.wrR1 val) :=
  ⟨_, rfl, by simp only [OpcodeRow.accepts, encode, Instr.toOp, encodeOp, (OpWord.mask_ofFields _ _ _).1]; decide⟩
theorem wrR2 (val : Byte) : Statement (.wrR2 val) :=
  ⟨_, rfl, by simp only [OpcodeRow.accepts, encode, Instr.toOp, encodeOp, (OpWord.mask_ofFields _ _ _).1]; decide⟩
theorem wrR3 (val : Byte) : Statement (.wrR3 val) :=
  ⟨_, rfl, by simp only [OpcodeRow.accepts, encode, Instr.toOp, encodeOp, (OpWord.mask_ofFields _ _ _).1]; decide⟩
theorem wrR4 (val : Byte) : Statement (.wrR4 val) :=
  ⟨_, rfl, by simp only [OpcodeRow.accepts, encode, Instr.toOp, encodeOp, (OpWord.mask_ofFields _ _ _).1]; decide⟩
theorem wrR5 (val : Byte) : Statement (.wrR5 val) :=
  ⟨_, rfl, by simp only [OpcodeRow.accepts, encode, Instr.toOp, encodeOp, (OpWord.mask_ofFields _ _ _).1]; decide⟩
theorem wrR6 (val : Byte) : Statement (.wrR6 val) :=
  ⟨_, rfl, by simp only [OpcodeRow.accepts, encode, Instr.toOp, encodeOp, (OpWord.mask_ofFields _ _ _).1]; decide⟩
theorem wrR7 (val : Byte) : Statement (.wrR7 val) :=
  ⟨_, rfl, by simp only [OpcodeRow.accepts, encode, Instr.toOp, encodeOp, (OpWord.mask_ofFields _ _ _).1]; decide⟩
theorem wrR8 (val : Byte) : Statement (.wrR8 val) :=
  ⟨_, rfl, by simp only [OpcodeRow.accepts, encode, Instr.toOp, encodeOp, (OpWord.mask_ofFields _ _ _).1]; decide⟩
theorem wrR9 (val : Byte) : Statement (.wrR9 val) :=
  ⟨_, rfl, by simp only [OpcodeRow.accepts, encode, Instr.toOp, encodeOp, (OpWord.mask_ofFields _ _ _).1]; decide⟩
theorem wrR10 (val : Byte) : Statement (.wrR10 val) :=
  ⟨_, rfl, by simp only [OpcodeRow.accepts, encode, Instr.toOp, encodeOp, (OpWord.mask_ofFields _ _ _).1]; decide⟩
theorem wrR11 (val : Byte) : Statement (.wrR11 val) :=
  ⟨_, rfl, by simp only [OpcodeRow.accepts, encode, Instr.toOp, encodeOp, (OpWord.mask_ofFields _ _ _).1]; decide⟩
theorem wrR12 (val : Byte) : Statement (.wrR12 val) :=
  ⟨_, rfl, by simp only [OpcodeRow.accepts, encode, Instr.toOp, encodeOp, (OpWord.mask_ofFields _ _ _).1]; decide⟩
theorem wrR13 (val : Byte) : Statement (.wrR13 val) :=
  ⟨_, rfl, by simp only [OpcodeRow.accepts, encode, Instr.toOp, encodeOp, (OpWord.mask_ofFields _ _ _).1]; decide⟩
theorem wrR14 (val : Byte) : Statement (.wrR14 val) :=
  ⟨_, rfl, by simp only [OpcodeRow.accepts, encode, Instr.toOp, encodeOp, (OpWord.mask_ofFields _ _ _).1]; decide⟩
theorem wrR15 (val : Byte) : Statement (.wrR15 val) :=
  ⟨_, rfl, by simp only [OpcodeRow.accepts, encode, Instr.toOp, encodeOp, (OpWord.mask_ofFields _ _ _).1]; decide⟩
theorem wrOor (idx val : Byte) : Statement (.wrOor idx val) :=
  ⟨_, rfl, by simp only [OpcodeRow.accepts, encode, Instr.toOp, encodeOp, (OpWord.mask_ofFields _ _ _).2]; decide⟩
theorem rdR0 : Statement .rdR0 := ⟨_, rfl, by decide⟩
theorem rdR1 : Statement .rdR1 := ⟨_, rfl, by decide⟩
theorem rdR2 : Statement .rdR2 := ⟨_, rfl, by decide⟩
theorem rdR3 : Statement .rdR3 := ⟨_, rfl, by decide⟩
theorem rdR4 : Statement .rdR4 := ⟨_, rfl, by decide⟩
theorem rdR5 : Statement .rdR5 := ⟨_, rfl, by decide⟩
theorem rdR6 : Statement .rdR6 := ⟨_, rfl, by decide⟩
theorem rdR7 : Statement .rdR7 := ⟨_, rfl, by decide⟩
theorem rdR8 : Statement .rdR8 := ⟨_, rfl, by decide⟩
theorem rdR9 : Statement .rdR9 := ⟨_, rfl, by decide⟩
theorem rdR10 : Statement .rdR10 := ⟨_, rfl, by decide⟩
theorem rdR11 : Statement .rdR11 := ⟨_, rfl, by decide⟩
theorem rdR12 : Statement .rdR12 := ⟨_, rfl, by decide⟩
theorem rdR13 : Statement .rdR13 := ⟨_, rfl, by decide⟩
theorem rdR14 : Statement .rdR14 := ⟨_, rfl, by decide⟩
theorem rdR15 : Statement .rdR15 := ⟨_, rfl, by decide⟩
theorem rdOor (idx : Byte) : Statement (.rdOor idx) :=
  ⟨_, rfl, by simp only [OpcodeRow.accepts, encode, Instr.toOp, encodeOp, (OpWord.mask_ofFields _ _ _).2]; decide⟩
theorem tick : Statement .tick := ⟨_, rfl, by decide⟩
theorem reset : Statement .reset := ⟨_, rfl, by decide⟩

end Sys2Proof.Laws.RowMatch
end

