-- ==== Sys2Proof/Tests/Slice0.lean ====
section
/-! SUPPORT. The model's own tests and the witnesses of its statements. Every expected value is taken from spec/: V<n>,
P<n> and S<n> are the vectors, programs and source examples of spec/95_test_vectors.md, R<n> the examples of the rules. -/

namespace Sys2Proof.Machine.Tests

/-! ### Helpers -/

/-- The instructions complete one after another and the last state passes the check. -/
def passes (is : List Instr) (s : State) (check : State → Bool) : Bool :=
  match execAll is s with
  | .next t => check t
  | .fault _ => false
  | .refused _ => false

/-- n steps complete and the last state passes the check. -/
def runs (n : Nat) (s : State) (check : State → Bool) : Bool :=
  match stepMany n s with
  | .next t => check t
  | .fault _ => false
  | .refused _ => false

/-- The reset state with another block. -/
def withBlock (b : Block) : State := { State.reset with block := b }

/-- The reset state with one register set. -/
def withReg (k : Fin 16) (v : Byte) : State := withBlock (Block.reset.store k v)

/-- The reset state with tone generator c at the given count and phase. -/
def withTone (c : Fin 3) (cnt : BitVec 12) (phase : BitVec 5) : State :=
  withBlock { Block.reset with tone := Block.reset.tone.set c ⟨cnt, phase⟩ }

/-- The reset state with the noise generator at the given count and shift register. -/
def withNoise (cnt : BitVec 6) (lfsr : BitVec 17) : State :=
  withBlock { Block.reset with noise := ⟨cnt, lfsr⟩ }

/-- The reset state with the given envelope generator. -/
def withEnv (e : Envelope) : State := withBlock { Block.reset with env := e }

/-- The block of a mixer row of V44 to V54: `R[7]`, `R[8]`, the tone bit of channel A, the noise bit. -/
def mixerRow (r7 r8 : Byte) (toneBit : BitVec 5) (noiseBit : BitVec 17) : Block :=
  { (Block.reset.store 7 r7).store 8 r8 with
    tone := Block.reset.tone.set 0 ⟨0, toneBit⟩
    noise := ⟨0, noiseBit⟩ }

/-- A configuration with the other polarity. -/
def activeHigh : Config := { Config.identity with mixerActiveLow := false }

/-! ### WellFormed: the check refuses an index that has a register -/

theorem test_wellFormed_refuses_wrOor_0F : (Instr.wrOor 0x0F 0x55).wellFormed = false := by decide
theorem test_wellFormed_refuses_rdOor_00 : (Instr.rdOor 0x00).wellFormed = false := by decide
theorem test_wellFormed_accepts :
    (Instr.wrOor 0x10 0x00).wellFormed = true ∧ (Instr.rdOor 0xFF).wellFormed = true ∧
    (Instr.wrR13 0xFF).wellFormed = true ∧ Instr.tick.wellFormed = true := by decide
theorem test_batch_refuses_repeated_index : (Event.batch [(7, 1), (8, 2), (7, 3)]).wellFormed = false := by decide

/-! ### Decoding: words written out from R71, `tag idx val` -/

theorem test_decode_writes_0_to_7 :
    decode 0b00_00000000_00000010#18 = .wrR0 0x02 ∧ decode 0b00_00000001_11110011#18 = .wrR1 0xF3 ∧
    decode 0b00_00000010_10000000#18 = .wrR2 0x80 ∧ decode 0b00_00000011_00000001#18 = .wrR3 0x01 ∧
    decode 0b00_00000100_00100011#18 = .wrR4 0x23 ∧ decode 0b00_00000101_00010010#18 = .wrR5 0x12 ∧
    decode 0b00_00000110_00100001#18 = .wrR6 0x21 ∧ decode 0b00_00000111_00111110#18 = .wrR7 0x3E := by decide
theorem test_decode_writes_8_to_15 :
    decode 0b00_00001000_00001111#18 = .wrR8 0x0F ∧ decode 0b00_00001001_00010000#18 = .wrR9 0x10 ∧
    decode 0b00_00001010_00001100#18 = .wrR10 0x0C ∧ decode 0b00_00001011_00000001#18 = .wrR11 0x01 ∧
    decode 0b00_00001100_11111111#18 = .wrR12 0xFF ∧ decode 0b00_00001101_00001010#18 = .wrR13 0x0A ∧
    decode 0b00_00001110_10101010#18 = .wrR14 0xAA ∧ decode 0b00_00001111_11111111#18 = .wrR15 0xFF := by decide
theorem test_decode_reads_0_to_7 :
    decode 0b01_00000000_00000000#18 = .rdR0 ∧ decode 0b01_00000001_00000000#18 = .rdR1 ∧
    decode 0b01_00000010_00000000#18 = .rdR2 ∧ decode 0b01_00000011_11111111#18 = .rdR3 ∧
    decode 0b01_00000100_00000000#18 = .rdR4 ∧ decode 0b01_00000101_00000001#18 = .rdR5 ∧
    decode 0b01_00000110_00000000#18 = .rdR6 ∧ decode 0b01_00000111_01011010#18 = .rdR7 := by decide
theorem test_decode_reads_8_to_15 :
    decode 0b01_00001000_00000000#18 = .rdR8 ∧ decode 0b01_00001001_00000000#18 = .rdR9 ∧
    decode 0b01_00001010_00000000#18 = .rdR10 ∧ decode 0b01_00001011_10000000#18 = .rdR11 ∧
    decode 0b01_00001100_00000000#18 = .rdR12 ∧ decode 0b01_00001101_00000000#18 = .rdR13 ∧
    decode 0b01_00001110_00000000#18 = .rdR14 ∧ decode 0b01_00001111_00000000#18 = .rdR15 := by decide
/-- V5, V6, V9 and the boundary index 0x10; 0xFF is the sentinel of R73. -/
theorem test_decode_out_of_range :
    decode 0b00_00010000_00000000#18 = .wrOor 0x10 0x00 ∧ decode 0b00_11111111_11111111#18 = .wrOor 0xFF 0xFF ∧
    decode 0b00_00011101_00001110#18 = .wrOor 0x1D 0x0E ∧ decode 0b01_00010000_00000000#18 = .rdOor 0x10 ∧
    decode 0b01_00100000_00000000#18 = .rdOor 0x20 ∧ decode 0b01_11111111_00000001#18 = .rdOor 0xFF := by decide
/-- V10 to V13. -/
theorem test_decode_tick_reset :
    decode 0b10_00000000_00000000#18 = .tick ∧ decode 0b10_10101011_11001101#18 = .tick ∧
    decode 0b11_00000000_00000000#18 = .reset ∧ decode 0b11_11111111_11111111#18 = .reset := by decide
/-- S1: the source's pair 0x07, 0x05. -/
theorem test_encode_source_pair : encode (.wrR7 0x05) = 0b00_00000111_00000101#18 := by decide
theorem test_decodeTableWord :
    decodeTableWord 24 0x0073E = some (.wrR7 0x3E) ∧ decodeTableWord 24 0x2ABCD = some .tick ∧
    decodeTableWord 16 0x00D0A = some (.wrR13 0x0A) ∧ decodeTableWord 24 0x40000 = none := by decide
theorem test_table_lists_36_rows : opcodeTable.length = 36 := by decide

/-! ### The step -/

/-- P1's first words, placed one after another: `RESET`, `WR R0, 0x02`, `WR R7, 0x3E`, two ticks. -/
theorem test_step_runs_pending_words :
    runs 5 { State.reset with pending := [0x30000, 0x00002, 0x0073E, 0x20000, 0x20000] } (fun t =>
      t.pending.isEmpty && (t.block.tone[0]).cnt.toNat == 0 && (t.block.tone[0]).phase.toNat == 1 &&
      t.block.toneBit 0 && t.block.regs[7] == 0x3E) = true := by decide
theorem test_withFetchWord_runs_next :
    runs 1 (State.reset.withFetchWord 24 0x00D0A) (fun t => t.block.regs[13] == 0x0A && t.pending.isEmpty) = true := by
  decide
theorem test_idle_step_keeps_state : step State.reset = .next State.reset := rfl

/-! ### Register writes and reads -/

/-- R102 and R104, R106: `TP(0)` = 0x1FE, `TP(1)` = 2, `TP(2)` = 128. -/
theorem test_write_tone_period_low :
    passes [.wrR0 0xFE] (withReg 1 0x01) (fun t => (t.block.tonePeriod 0).toNat == 0x1FE) = true ∧
    passes [.wrR2 0x02] State.reset (fun t => (t.block.tonePeriod 1).toNat == 2) = true ∧
    passes [.wrR4 0x80] State.reset (fun t => (t.block.tonePeriod 2).toNat == 128) = true := by decide
/-- V14, R105, R107. -/
theorem test_write_tone_period_high :
    passes [.wrR1 0xF3] State.reset (fun t => (t.block.tonePeriod 0).toNat == 0x300) = true ∧
    passes [.wrR3 0x01] State.reset (fun t => (t.block.tonePeriod 1).toNat == 0x100) = true ∧
    passes [.wrR5 0x12] (withReg 4 0x23) (fun t => (t.block.tonePeriod 2).toNat == 0x223) = true := by decide
/-- V15: the largest tone period. -/
theorem test_write_tone_period_largest :
    passes [.wrR0 0xFF, .wrR1 0xFF] State.reset (fun t => (t.block.tonePeriod 0).toNat == 4095) = true := by decide
/-- V16, R108. -/
theorem test_write_noise_period :
    passes [.wrR6 0xFF] State.reset (fun t => t.block.noisePeriod.toNat == 31 && t.block.regs[6] == 0xFF) = true ∧
    passes [.wrR6 0x21] State.reset (fun t => t.block.noisePeriod.toNat == 1) = true := by decide
/-- R77: 0x38 enables the three tones and disables noise everywhere. -/
theorem test_write_mixer :
    passes [.wrR7 0x38] State.reset (fun t =>
      t.block.toneEnabled Config.identity 2 && !t.block.noiseEnabled Config.identity 0) = true := by decide
/-- V17, R111, R112. -/
theorem test_write_volume :
    passes [.wrR8 0xFF] State.reset (fun t =>
      t.block.envSelect 0 && t.block.fixedLevel 0 == 15 && t.block.regs[8] == 0xFF) = true ∧
    passes [.wrR9 0x10] State.reset (fun t => t.block.envSelect 1 && !t.block.envSelect 0) = true ∧
    passes [.wrR10 0x08] State.reset (fun t => !t.block.envSelect 2 && t.block.fixedLevel 2 == 8) = true := by decide
/-- R113, R114: `EP` = 1, `EP` = 256, and the envelope is not restarted. -/
theorem test_write_envelope_period :
    passes [.wrR11 0x01] (withEnv ⟨7, 3, false, true, false, false⟩) (fun t =>
      t.block.envPeriod.toNat == 1 && t.block.env.cnt == 7 && t.block.env.level == 3) = true ∧
    passes [.wrR12 0x01] State.reset (fun t => t.block.envPeriod.toNat == 256) = true := by decide
/-- R115: `WR R13, 0x0E` from an envelope that has stopped. -/
theorem test_write_shape :
    passes [.wrR13 0x0E] (withEnv ⟨99, 5, false, true, false, true⟩) (fun t =>
      t.block.env == ⟨0, 0, true, false, true, false⟩ && t.block.regs[13] == 0x0E) = true := by decide
/-- V36: bits 7:4 do not affect the load and read back. -/
theorem test_write_shape_unused_bits :
    passes [.wrR13 0xFB, .rdR13] State.reset (fun t =>
      t.block.env == ⟨0, 15, false, true, true, false⟩ && t.reply == some 0xFB) = true := by decide
/-- V19. -/
theorem test_ports_are_storage :
    passes [.wrR14 0xAA, .wrR15 0x55, .rdR14] State.reset (fun t => t.reply == some 0xAA) = true ∧
    passes [.wrR14 0xAA, .wrR15 0x55, .rdR15] State.reset (fun t => t.reply == some 0x55) = true := by decide
/-- V18: the whole state is unchanged. -/
theorem test_write_out_of_range : exec (.wrOor 0x1D 0x0E) State.reset = .next State.reset := rfl
/-- V19b. -/
theorem test_writes_commute :
    passes [.wrR5 0x01, .wrR4 0x23] State.reset (fun t =>
      passes [.wrR4 0x23, .wrR5 0x01] State.reset (fun u => t == u) && (t.block.tonePeriod 2).toNat == 0x123) =
      true := by decide
/-- Each register read returns its own register: the low eight hold 0x10 to 0x17. -/
theorem test_reads_0_to_7 :
    replies [.wrR0 0x10, .wrR1 0x11, .wrR2 0x12, .wrR3 0x13, .wrR4 0x14, .wrR5 0x15, .wrR6 0x16, .wrR7 0x17,
      .rdR0, .rdR1, .rdR2, .rdR3, .rdR4, .rdR5, .rdR6, .rdR7] State.reset =
      [0x10, 0x11, 0x12, 0x13, 0x14, 0x15, 0x16, 0x17] := by decide
/-- Each register read returns its own register: the high eight hold 0x18 to 0x1F. -/
theorem test_reads_8_to_15 :
    replies [.wrR8 0x18, .wrR9 0x19, .wrR10 0x1A, .wrR11 0x1B, .wrR12 0x1C, .wrR13 0x1D, .wrR14 0x1E, .wrR15 0x1F,
      .rdR8, .rdR9, .rdR10, .rdR11, .rdR12, .rdR13, .rdR14, .rdR15] State.reset =
      [0x18, 0x19, 0x1A, 0x1B, 0x1C, 0x1D, 0x1E, 0x1F] := by decide
/-- R122: some byte is returned, drawn anew, and the block is as before. -/
theorem test_read_out_of_range (s : State) :
    exec (.rdOor 0x10) s = .next { s with reply := some (Config.freeByte s.draws), draws := s.draws + 1 } := rfl

/-! ### TICK and RESET -/

/-- V57. -/
theorem test_tick_from_reset :
    passes [.tick] State.reset (fun t =>
      t.block.tone == #v[⟨0, 1⟩, ⟨0, 1⟩, ⟨0, 1⟩] && t.block.noise == ⟨1, 0x1FFFF⟩ &&
      t.block.env == ⟨1, 15, false, true, false, false⟩ && t.block.regs == Block.reset.regs) = true := by decide
/-- V24's last tick, V41's last tick and V35's last tick, each from the state before it. -/
theorem test_tick_largest_periods :
    passes [.wrR0 0xFF, .wrR1 0xFF, .tick] (withTone 0 4094 0) (fun t => t.block.tone[0] == ⟨0, 1⟩) = true ∧
    passes [.wrR6 0xFF, .tick] (withNoise 61 0x1FFFF) (fun t => t.block.noise == ⟨0, 0x0FFFF⟩) = true ∧
    passes [.wrR11 0xFF, .wrR12 0xFF, .tick] (withEnv ⟨131069, 0, true, true, false, false⟩) (fun t =>
      t.block.env.cnt == 0 && t.block.env.level == 1) = true := by decide
/-- V25's last tick: a period lowered below the count expires at once. -/
theorem test_tick_lowered_period :
    passes [.wrR0 10, .tick] (withTone 0 50 0) (fun t => t.block.tone[0] == ⟨0, 1⟩) = true := by decide
/-- V26: the phase wraps from 31 to 0. -/
theorem test_tick_phase_wraps :
    passes [.tick] (withTone 1 0 31) (fun t => t.block.tone[1] == ⟨0, 0⟩) = true := by decide
/-- V39, V40, V43: values of `LfsrNext`. -/
theorem test_lfsrNext :
    lfsrNext 0x1FFFF = 0x0FFFF ∧ lfsrNext 0x00007 = 0x10003 ∧ lfsrNext 0x1C000 = 0x0E000 ∧
    lfsrNext 0x00001 = 0x10000 ∧ lfsrNext 0x00008 = 0x10004 ∧ lfsrNext 0x04001 = 0x12000 ∧ lfsrNext 0 = 0 := by decide
/-- R149: the saturating steps of the shapes 0xB, 0xF, 0xA, 0xE, 0x8, 0xC. -/
theorem test_saturating_steps :
    (⟨0, 0, false, true, true, false⟩ : Envelope).levelStep = ⟨0, 15, false, true, true, true⟩ ∧
    (⟨0, 15, true, true, true, false⟩ : Envelope).levelStep = ⟨0, 0, true, true, true, true⟩ ∧
    (⟨0, 0, false, false, true, false⟩ : Envelope).levelStep = ⟨0, 0, true, false, true, false⟩ ∧
    (⟨0, 15, true, false, true, false⟩ : Envelope).levelStep = ⟨0, 15, false, false, true, false⟩ ∧
    (⟨0, 0, false, false, false, false⟩ : Envelope).levelStep = ⟨0, 15, false, false, false, false⟩ ∧
    (⟨0, 15, true, false, false, false⟩ : Envelope).levelStep = ⟨0, 0, true, false, false, false⟩ := by decide
/-- R80: the normalised codes of the sixteen shapes. -/
theorem test_normalised_shapes :
    (List.range 16).map (fun v => (normShape (BitVec.ofNat 8 v)).toNat) =
      [9, 9, 9, 9, 15, 15, 15, 15, 8, 9, 10, 11, 12, 13, 14, 15] := by decide
/-- V55: any history ends in the reset block. -/
theorem test_reset :
    passes [.wrR7 0x3F, .wrR13 0x0E, .tick, .reset] (withNoise 3 0x00001) (fun t => t.block == Block.reset) = true := by
  decide

/-! ### Mixer and DAC, with the identity table -/

/-- V44 to V48. -/
theorem test_mixer_one_input :
    (mixerRow 0x3F 0x0F 0 0).out Config.identity 0 = 15 ∧ (mixerRow 0x3E 0x0F 0 1).out Config.identity 0 = 0 ∧
    (mixerRow 0x3E 0x0F 1 0).out Config.identity 0 = 15 ∧ (mixerRow 0x37 0x0F 1 0).out Config.identity 0 = 0 ∧
    (mixerRow 0x37 0x0F 0 1).out Config.identity 0 = 15 := by decide
/-- V49 to V51. -/
theorem test_mixer_both_inputs :
    (mixerRow 0x36 0x0A 1 1).out Config.identity 0 = 10 ∧ (mixerRow 0x36 0x0A 1 0).out Config.identity 0 = 0 ∧
    (mixerRow 0x36 0x0A 0 1).out Config.identity 0 = 0 := by decide
/-- V53 with level 15, V54. -/
theorem test_mixer_level :
    (mixerRow 0x3F 0x10 0 0).out Config.identity 0 = 15 ∧ (mixerRow 0xFF 0xEF 0 0).out Config.identity 0 = 15 := by
  decide

/-! ### Schedules, lines, two chips -/

/-- R86, R87: P1's lines and its words. -/
theorem test_assemble :
    assemble [.reset, .frame [.tonePeriod 0 0x002, .reg 7 0x3E, .reg 8 0x0F], .ticks 2] =
      [0x30000, 0x00002, 0x00100, 0x0073E, 0x0080F, 0x20000, 0x20000] := by decide
theorem test_assemble_wrep : assemble [.write (.envPeriod 0x1234)] = [0x00B34, 0x00C12] := by decide
/-- R212: a write to chip 0 leaves chip 1 alone. -/
theorem test_two_chips :
    TurboSound.step .chip0 ⟨State.reset.withFetchWord 24 0x00D0A, State.reset⟩ =
      .next ⟨(State.reset.writeShape 0x0A), State.reset⟩ := rfl

/-! ### Witnesses: each statement's hypotheses are met, and its clauses have cases at their boundaries -/

theorem witness_DecodeInvertsEncode :
    (Instr.wrOor 0x10 0xFF).wellFormed = true ∧ (Instr.rdOor 0xFF).wellFormed = true ∧
    Instr.reset.wellFormed = true := by decide
theorem witness_DecodeTakesFirstTableRow :
    (firstRow 0x00FFF).map (fun r => r.mnemonic) = some "WR.R15" ∧
    (firstRow 0x01000).map (fun r => r.mnemonic) = some "WR.OOR" ∧
    (firstRow 0x2FFFF).map (fun r => r.mnemonic) = some "TICK" := by decide
theorem witness_StepRunsDecodedOperation :
    ({ State.reset with pending := [0x3FFFF, 0x20000] } : State).pending = 0x3FFFF :: [0x20000] ∧
    ({ State.reset with pending := [0x01D0E] } : State).pending = encode (.wrOor 0x1D 0x0E) :: [] ∧
    (Instr.wrOor 0x1D 0x0E).wellFormed = true ∧ State.reset.pending = [] := by decide
theorem witness_RunExecutesPendingInOrder :
    ({ State.reset with pending := [0x00D0A, 0x20000, 0x10D00] } : State).pending =
      [Op.wr 0x0D 0x0A, Op.tick].map encodeOp ++ [0x10D00] := by decide
/-- A new period at count + 1 and one above it, by a write of the low half and of the high half; the period 0 by each. -/
theorem witness_TonePeriodWrites :
    passes [.wrR1 0xF1] (withTone 0 255 0) (fun t => decide ((t.block.tonePeriod 0).toNat ≤ 255 + 1)) = true ∧
    passes [.wrR1 0xF1] (withTone 0 254 0) (fun t => decide (¬ (t.block.tonePeriod 0).toNat ≤ 254 + 1)) = true ∧
    (0xF0 : Byte).toNat % 16 = 0 ∧ (withTone 0 255 0).block.regs[0] = 0 ∧
    passes [.wrR0 51] (withTone 0 50 0) (fun t => decide ((t.block.tonePeriod 0).toNat ≤ 50 + 1)) = true ∧
    passes [.wrR0 52] (withTone 0 50 0) (fun t => decide (¬ (t.block.tonePeriod 0).toNat ≤ 50 + 1)) = true ∧
    (withReg 1 0xF0).block.regs[1].toNat % 16 = 0 ∧ (0xF3 : Byte).toNat % 16 = (0x03 : Byte).toNat % 16 := by decide
/-- A count of 61 with period 31 is an expiry, a count of 60 is not; period 0 with counts 1 and 0. -/
theorem witness_NoisePeriodWrite :
    2 * max 1 31 ≤ (withNoise 61 1).block.noise.cnt.toNat + 1 ∧
    (withNoise 60 1).block.noise.cnt.toNat + 1 < 2 * max 1 31 ∧
    2 * max 1 0 ≤ (withNoise 1 1).block.noise.cnt.toNat + 1 ∧
    (withNoise 0 1).block.noise.cnt.toNat + 1 < 2 * max 1 0 := by decide
theorem witness_MixerWrite :
    Config.identity.mixerActiveLow = true ∧ (0xC5 : Byte).toNat % 64 = (0x05 : Byte).toNat % 64 := by decide
/-- The mixer write and a volume write that change an output. -/
theorem witness_writes_change_outputs :
    passes [.wrR7 0x3F] (withReg 8 0x0F) (fun t => t.block.out Config.identity 0 == 15) = true ∧
    (withReg 8 0x0F).block.out Config.identity 0 = 0 ∧
    passes [.wrR9 0x0F] (withReg 7 0x3F) (fun t => t.block.out Config.identity 1 == 15) = true ∧
    (withReg 7 0x3F).block.out Config.identity 1 = 0 := by decide
theorem witness_VolumeWrites :
    0x10 ≤ (0x10 : Byte).toNat ∧ (0x10 : Byte).toNat ≤ 0x1F ∧ 0x10 ≤ (0x1F : Byte).toNat ∧
    (0x1F : Byte).toNat ≤ 0x1F := by decide
/-- Both sides of the comparison at the largest period and at period 0. -/
theorem witness_EnvelopePeriodWrites :
    passes [.tick] (withBlock { (Block.reset.store 11 0xFF).store 12 0xFF with
      env := ⟨131069, 5, true, false, false, false⟩ }) (fun t => t.block.env.level == 6) = true ∧
    passes [.tick] (withBlock { (Block.reset.store 11 0xFF).store 12 0xFF with
      env := ⟨131068, 5, true, false, false, false⟩ }) (fun t => t.block.env.level == 5) = true ∧
    passes [.tick] (withEnv ⟨1, 5, true, false, false, false⟩) (fun t => t.block.env.level == 6) = true ∧
    passes [.tick] (withEnv ⟨0, 5, true, false, false, false⟩) (fun t => t.block.env.level == 5) = true := by decide
/-- Shapes 0x7 and 0x8 stand on the two sides of the continue bit. -/
theorem witness_ShapeWriteLoadsEnvelope :
    (0x07 : Byte).toNat / 8 % 2 = 0 ∧ (0x08 : Byte).toNat / 8 % 2 = 1 := by decide
theorem witness_out_of_range_indices : 15 < (0x10 : Byte).toNat ∧ 15 < (0xFF : Byte).toNat := by decide
/-- Clause (a) with a tick and another register's write between, (b) a held byte, (c) two indices, one out of range. -/
theorem witness_WriteLaws :
    ((15 : Byte).toNat ≤ 15 ∧ ∀ op ∈ [Op.tick, .wr 13 0, .rd 15], op ≠ .reset ∧ ∀ w, op ≠ .wr 15 w) ∧
    ((3 : Byte) ≠ 13 ∧ (withReg 3 0x07).block.regs[(3 : Byte).toNat]'(by decide) = 0x07) ∧
    (13 : Byte) ≠ 0x1D := by
  refine ⟨⟨by decide, ?_⟩, by decide, by decide⟩
  intro op h
  simp only [List.mem_cons, List.not_mem_nil, or_false] at h
  rcases h with rfl | rfl | rfl <;> simp
theorem witness_BatchOrderIsImmaterial :
    ([(13, 0x0E), (11, 1), (0x1D, 9)] : List (Byte × Byte)).Perm [(0x1D, 9), (13, 0x0E), (11, 1)] ∧
    (Event.batch [(13, 0x0E), (11, 1), (0x1D, 9)]).wellFormed = true := by decide
/-- Two states with equal registers and different generators. -/
theorem witness_ReadsNeverShowGeneratorState :
    (withNoise 3 1).block.regs = State.reset.block.regs ∧ (withNoise 3 1).draws = State.reset.draws ∧
    (withNoise 3 1).block ≠ State.reset.block := by decide
/-- Counts 0 and 1 with the reset periods, at both sides of the comparison; the largest count. -/
theorem witness_ToneStepAtTick :
    (withTone 0 0 31).block.tone[0].cnt.toNat + 1 ≥ max 1 ((withTone 0 0 31).block.tonePeriod 0).toNat ∧
    (withBlock (Block.reset.store 0 2)).block.tone[0].cnt.toNat + 1 <
      max 1 ((withBlock (Block.reset.store 0 2)).block.tonePeriod 0).toNat := by decide
theorem witness_NoiseStepAtTick :
    (withNoise 1 1).block.noise.cnt.toNat + 1 ≥ 2 * max 1 ((withNoise 1 1).block.regs[6].toNat % 32) ∧
    (withNoise 0 1).block.noise.cnt.toNat + 1 < 2 * max 1 ((withNoise 0 1).block.regs[6].toNat % 32) := by decide
/-- The envelope step's cases through a tick: holding, up below 15, down above 0, and the saturating step at 15 and at
0 for each pair of flags. -/
theorem witness_EnvelopeStepAtTick :
    passes [.tick] (withEnv ⟨1, 9, true, true, false, true⟩) (fun t => t.block.env.level == 9) = true ∧
    passes [.tick] (withEnv ⟨1, 14, true, true, false, false⟩) (fun t => t.block.env.level == 15) = true ∧
    passes [.tick] (withEnv ⟨1, 1, false, true, false, false⟩) (fun t => t.block.env.level == 0) = true ∧
    passes [.tick] (withEnv ⟨1, 15, true, true, true, false⟩) (fun t =>
      t.block.env == ⟨0, 0, true, true, true, true⟩) = true ∧
    passes [.tick] (withEnv ⟨1, 0, false, true, false, false⟩) (fun t =>
      t.block.env == ⟨0, 0, false, true, false, true⟩) = true ∧
    passes [.tick] (withEnv ⟨1, 0, false, false, true, false⟩) (fun t =>
      t.block.env == ⟨0, 0, true, false, true, false⟩) = true ∧
    passes [.tick] (withEnv ⟨1, 15, true, false, false, false⟩) (fun t =>
      t.block.env == ⟨0, 0, true, false, false, false⟩) = true := by decide
/-- Two states with the same generators: one with all periods 0 and one with all periods 1; and two that differ in a
register no tick reads. -/
theorem witness_TickReadsPeriodsAndWritesGenerators :
    (∀ c : Fin 3, State.reset.block.tonePeriod c = 0 ∧
      (withBlock ((((((Block.reset.store 0 1).store 2 1).store 4 1).store 6 1).store 11 1))).block.tonePeriod c = 1) ∧
    (State.reset.block.noisePeriod = 0 ∧
      (withBlock ((((((Block.reset.store 0 1).store 2 1).store 4 1).store 6 1).store 11 1))).block.noisePeriod = 1) ∧
    (State.reset.block.envPeriod = 0 ∧
      (withBlock ((((((Block.reset.store 0 1).store 2 1).store 4 1).store 6 1).store 11 1))).block.envPeriod = 1) ∧
    (∀ k : Fin 16, k.val ≤ 6 ∨ k.val = 11 ∨ k.val = 12 →
      State.reset.block.regs[k] = (withReg 7 0xFF).block.regs[k]) := by decide
theorem witness_GeneratorStepsCommute :
    ([.env, .tone 2, .noise, .tone 0, .tone 1] : List GenStep).Perm [.tone 0, .tone 1, .tone 2, .noise, .env] := by
  decide
theorem witness_LeavesRegister (k : Fin 16) (h : k.val ≠ 7) : LeavesRegister k [.tick, .wrR7 0x3E, .rdR0, .tick] := by
  intro i hi
  simp only [List.mem_cons, List.not_mem_nil, or_false] at hi
  rcases hi with rfl | rfl | rfl | rfl <;> simp [Instr.toOp]
  omega
theorem witness_ToneIsASquareWave :
    (State.reset.block.tone[(2 : Fin 3)]).cnt = 0 ∧ LeavesRegister 4 [.tick, .wrR7 0x3E, .rdR0, .tick] ∧
    LeavesRegister 5 [.tick, .wrR7 0x3E, .rdR0, .tick] :=
  ⟨by decide, witness_LeavesRegister 4 (by decide), witness_LeavesRegister 5 (by decide)⟩
theorem witness_EnvelopeTrajectoryFromLoad :
    LeavesRegister 11 [.tick, .wrR7 0x3E, .rdR0, .tick] ∧ LeavesRegister 12 [.tick, .wrR7 0x3E, .rdR0, .tick] ∧
    LeavesRegister 13 [.tick, .wrR7 0x3E, .rdR0, .tick] :=
  ⟨witness_LeavesRegister 11 (by decide), witness_LeavesRegister 12 (by decide), witness_LeavesRegister 13 (by decide)⟩
theorem witness_HoldingIsFinal :
    (withEnv ⟨0, 15, false, true, true, true⟩).block.env.holding = true ∧
    ∀ i ∈ [Instr.tick, .wrR11 0, .wrR8 0x1F], i ≠ .reset ∧ ∀ v, i ≠ .wrR13 v := by
  refine ⟨by decide, ?_⟩
  intro i hi
  simp only [List.mem_cons, List.not_mem_nil, or_false] at hi
  rcases hi with rfl | rfl | rfl <;> simp
theorem witness_EqualNormalShapesAreEquivalent : normShape 0x03 = normShape 0xF9 ∧ normShape 0x07 = normShape 0x4F := by
  decide
/-- Two states that agree on one generator and its period and differ in the others. -/
theorem witness_GeneratorsAreIndependent :
    (withNoise 3 1).block.tone[(0 : Fin 3)] = State.reset.block.tone[(0 : Fin 3)] ∧
    (withTone 1 7 1).block.noise = State.reset.block.noise ∧ (withTone 1 7 1).block.regs[6] = State.reset.block.regs[6] ∧
    (withReg 7 0xFF).block.env = State.reset.block.env := by decide
theorem witness_ShiftRegisterIsNeverZero : (withNoise 0 1).block.noise.lfsr ≠ 0 := by decide
theorem witness_NoisePeriodIsExact :
    (1 : BitVec 17) ≠ 0 ∧ (withNoise 1 1).block.noise.cnt.toNat < 2 * max 1 (withNoise 1 1).block.noisePeriod.toNat ∧
    LeavesRegister 6 (List.replicate 262142 .tick) ∧ (List.replicate 262142 Instr.tick).count .tick = 131071 * 2 := by
  refine ⟨by decide, by decide, ?_, List.count_replicate_self⟩
  intro i hi
  rw [List.eq_of_mem_replicate hi]
  simp [Instr.toOp]
/-- The premises of the output laws: equal inputs of channel A with different other registers; every gate 1; level 0;
two levels in order with gate 1. -/
theorem witness_OutputLaws :
    ((mixerRow 0x36 0xEA 3 1).regs[7].getLsbD 0 = (mixerRow 0xC6 0x0A 1 1).regs[7].getLsbD 0 ∧
      (mixerRow 0x36 0xEA 3 1).regs[7].getLsbD 3 = (mixerRow 0xC6 0x0A 1 1).regs[7].getLsbD 3 ∧
      (mixerRow 0x36 0xEA 3 1).regs[8].toNat % 32 = (mixerRow 0xC6 0x0A 1 1).regs[8].toNat % 32 ∧
      (mixerRow 0x36 0xEA 3 1).tone[0].phase.toNat % 2 = (mixerRow 0xC6 0x0A 1 1).tone[0].phase.toNat % 2) ∧
    (mixerRow 0x3F 0x00 0 1).regs[7] = 0x3F ∧ (mixerRow 0x3F 0x00 0 1).regs[8] = 0x00 ∧
    ((mixerRow 0x3F 0x03 0 1).gate Config.identity 0 = true ∧ (mixerRow 0x3F 0x0F 0 1).gate Config.identity 0 = true ∧
      ((mixerRow 0x3F 0x03 0 1).level 0).toNat ≤ ((mixerRow 0x3F 0x0F 0 1).level 0).toNat) := by decide
theorem witness_WritesThatChangeOutputs :
    (14 : Byte) ≠ 7 ∧ (14 : Byte) ≠ 8 ∧ (14 : Byte) ≠ 9 ∧ (14 : Byte) ≠ 10 ∧ (14 : Byte) ≠ 13 ∧
    passes [.wrR13 0x0D] (withBlock ((Block.reset.store 7 0x3F).store 8 0x10)) (fun t =>
      t.block.out Config.identity 0 == 0) = true ∧
    (withBlock ((Block.reset.store 7 0x3F).store 8 0x10)).block.out Config.identity 0 = 15 := by decide
theorem witness_ResetSignals : Config.identity.mixerActiveLow = true ∧ activeHigh.mixerActiveLow = false := by decide
theorem witness_ResetRestoresEverything :
    Instr.wrR13 0xFF ≠ .reset ∧ Instr.wrR13 0xFF ≠ .tick ∧ Instr.tick ≠ .reset := by decide
/-- A state that is not the reset state has the invariant: an envelope of shape 0xB that has stopped at 15. -/
theorem witness_EveryStepKeepsTheInvariant :
    State.Inv { withBlock { Block.reset.store 13 0xFB with env := ⟨7, 15, false, true, true, true⟩ } with
      pending := [0x20000] } :=
  ⟨by decide, by decide, by decide, by decide, by decide, by decide, by decide, by decide⟩
theorem witness_InterleavingLeavesTheRegisters :
    Schedule.admits [.batch [(0, 1), (1, 2)], .rd 0] [.tick, .batch [(0, 1), (1, 2)], .tick, .tick, .rd 0] = true ∧
    Schedule.admits [.batch [(0, 1), (1, 2)], .rd 0] [.batch [(0, 1)], .tick, .batch [(1, 2)], .rd 0] = false := by
  decide
theorem witness_PseudoOperationsExpand :
    ({ State.reset with pending := [0x002FF, 0x00303] } : State).pending = assemble [.write (.tonePeriod 1 0x3FF)] ∧
    ({ State.reset with pending := [0x00BFF, 0x00CFF] } : State).pending = assemble [.write (.envPeriod 0xFFFF)] ∧
    ({ State.reset with pending := [0x20000, 0x20000, 0x20000] } : State).pending = assemble [.ticks 3] := by decide
/-- P4: from 0x0FF to 0x100, torn and whole; the largest counts. -/
theorem witness_TornPeriodPair :
    (withTone 0 4094 0).block.tone[(0 : Fin 3)].cnt.toNat ≤ 4094 ∧
    (withEnv ⟨131069, 0, true, false, false, false⟩).block.env.cnt.toNat ≤ 131069 ∧
    passes [.wrR0 0x00, .tick, .wrR1 0x01] (withBlock { Block.reset.store 0 0xFF with
      tone := Block.reset.tone.set 0 ⟨10, 0⟩ }) (fun t => t.block.tone[0] == ⟨0, 1⟩) = true ∧
    passes [.wrR0 0x00, .wrR1 0x01, .tick] (withBlock { Block.reset.store 0 0xFF with
      tone := Block.reset.tone.set 0 ⟨10, 0⟩ }) (fun t => t.block.tone[0] == ⟨11, 0⟩) = true := by decide
/-- The envelope pair from 0x00FF to 0x0100 (R230): the low half first passes through 0, the high half first through
0x01FF. -/
theorem witness_TornPeriodPair_envelope :
    passes [.wrR11 0x00, .tick, .wrR12 0x01] (withBlock { Block.reset.store 11 0xFF with
      env := ⟨10, 5, true, false, false, false⟩ }) (fun t => t.block.env == ⟨0, 6, true, false, false, false⟩) = true ∧
    passes [.wrR12 0x01, .tick, .wrR11 0x00] (withBlock { Block.reset.store 11 0xFF with
      env := ⟨511, 5, true, false, false, false⟩ }) (fun t => t.block.env == ⟨512, 5, true, false, false, false⟩) =
      true ∧
    passes [.wrR11 0x00, .wrR12 0x01, .tick] (withBlock { Block.reset.store 11 0xFF with
      env := ⟨511, 5, true, false, false, false⟩ }) (fun t => t.block.env == ⟨0, 6, true, false, false, false⟩) =
      true := by decide

end Sys2Proof.Machine.Tests
end

section
/-! PROOF. The reset state and the operation that reaches it (spec/10_state.md R46, spec/45_tick_reset.md R190). -/

namespace Sys2Proof.Machine

/-! ### The reset block and `RESET` -/

@[simp] theorem Block.reset_getElem_regs (i : Nat) (h : i < 16) : Block.reset.regs[i] = 0x00 :=
  Vector.getElem_replicate h

@[simp] theorem Block.reset_getElem_tone (c : Nat) (h : c < 3) : Block.reset.tone[c] = ⟨0, 0⟩ :=
  Vector.getElem_replicate h

/-- The reset block holds the table of R46. -/
theorem Block.reset_holdsResetTable : HoldsResetTable Block.reset where
  regs i := Block.reset_getElem_regs i i.isLt
  tone c := by simp
  noise := by decide
  env := by decide
  flags := by decide

/-- `RESET` completes from every state: the block becomes the reset block, nothing is returned, and the pending words
and the draws stay (R190). -/
theorem exec_reset (s : State) : exec .reset s = .next { s with block := Block.reset, reply := none } := by
  have hact : exec .reset s = .next (s.act Block.resetAll) := rfl
  rw [hact, State.act, Block.resetAll_eq_reset]

/-! ### The statement -/

/-- Settles O43: both the power-on block and the block that `RESET` leaves are the reset block, which holds the
table. -/
theorem resetTable : Obligations.ResetTable :=
  ⟨Block.reset_holdsResetTable, fun s => ⟨_, exec_reset s, Block.reset_holdsResetTable⟩⟩

end Sys2Proof.Machine
end

section
/-! PROOF. A batch of writes leaves the same state in every order (spec/20_memory.md R63): every operation is the
general rule for it, writes to different indices commute, so the fold over a batch does not see its order. -/

namespace Sys2Proof.Machine

/-! ### Every operation as the general rule -/

/-- The row of a register write does what the one rule for `WR` says (R101, R115, R118). -/
theorem exec_ofWrite (i v : Byte) (s : State) : exec (Instr.ofWrite i v) s = .next (s.apply (.wr i v)) := by
  have hi : BitVec.ofNat 8 i.toNat = i := by simp
  unfold Instr.ofWrite
  split
  case h_17 =>
    have hoor : ¬ i.toNat ≤ 15 := by intro h; interval_cases i.toNat <;> contradiction
    simp [State.apply, Block.apply, Block.wr, hoor, exec, execWrOor, State.dropWrite, State.act]
  all_goals
    rename_i h
    rw [h] at hi
    subst hi
    rfl

/-- The row of a register read does what the one rule for `RD` says (R120, R122). -/
theorem exec_ofRead (i : Byte) (s : State) : exec (Instr.ofRead i) s = .next (s.apply (.rd i)) := by
  have hi : BitVec.ofNat 8 i.toNat = i := by simp
  unfold Instr.ofRead
  split
  case h_17 =>
    have hoor : ¬ i.toNat ≤ 15 := by intro h; interval_cases i.toNat <;> contradiction
    simp [State.apply, hoor, exec, execRdOor, State.readFree]
  all_goals
    rename_i h
    rw [h] at hi
    subst hi
    rfl

/-- Every abstract operation completes, in the state that its general rule gives (R70, R200). -/
theorem exec_toInstr (op : Op) (s : State) : exec op.toInstr s = .next (s.apply op) := by
  cases op with
  | wr i v => exact exec_ofWrite i v s
  | rd i => exact exec_ofRead i s
  | tick => rfl
  | reset => exact exec_reset s

/-- Operations executed one after another are the fold of the general rules. -/
theorem execAll_map_toInstr (ops : List Op) (s : State) :
    execAll (ops.map Op.toInstr) s = .next (ops.foldl State.apply s) := by
  induction ops generalizing s with
  | nil => rfl
  | cons op ops ih => simp only [List.map_cons, execAll, exec_toInstr, ih, List.foldl_cons]

/-! ### Writes to different indices -/

/-- Stores to different registers commute. -/
theorem Block.store_comm (b : Block) {i j : Fin 16} (h : i ≠ j) (v w : Byte) :
    (b.store i v).store j w = (b.store j w).store i v := by
  have hij : i.val ≠ j.val := fun e => h (Fin.ext e)
  simp [Block.store, Vector.set_comm _ _ hij]

/-- The load of the envelope does not read the register file. -/
theorem Block.loadEnvelope_store (b : Block) (i : Fin 16) (v w : Byte) :
    (b.store i v).loadEnvelope w = (b.loadEnvelope w).store i v := rfl

/-- `WR` to an index above 15 leaves the block as it is (R118). -/
theorem Block.wr_of_lt (b : Block) {i : Byte} (v : Byte) (h : 15 < i.toNat) : b.wr i v = b :=
  dif_neg (by omega)

/-- `WR` to a register other than `R[13]` is the store alone (R101). -/
theorem Block.wr_of_le (b : Block) {i : Byte} (v : Byte) (h : i.toNat ≤ 15) (h13 : i ≠ 13) :
    b.wr i v = b.store ⟨i.toNat, by omega⟩ v :=
  (dif_pos h).trans (if_neg h13)

/-- `WR` to `R[13]` is the store and the load of the envelope (R115). -/
theorem Block.wr_shape (b : Block) (v : Byte) : b.wr 13 v = (b.store regEnvShape v).loadEnvelope v := rfl

/-- A write of the shape commutes with a write to any other index: no other write touches the envelope, and its load
does not depend on another register (R63). -/
theorem Block.wr_shape_comm (b : Block) {j : Byte} (h : j ≠ 13) (v w : Byte) :
    (b.wr 13 v).wr j w = (b.wr j w).wr 13 v := by
  rcases Nat.lt_or_ge 15 j.toNat with hj | hj
  · simp only [Block.wr_of_lt _ _ hj]
  · have hne : (⟨j.toNat, by omega⟩ : Fin 16) ≠ regEnvShape := fun e =>
      h (BitVec.eq_of_toNat_eq (Fin.val_eq_of_eq e : j.toNat = 13))
    simp only [Block.wr_shape, Block.wr_of_le _ _ hj h, Block.store_comm _ hne, Block.loadEnvelope_store]

/-- `WR`s to different indices commute on the block (R63). -/
theorem Block.wr_comm (b : Block) {i j : Byte} (h : i ≠ j) (v w : Byte) :
    (b.wr i v).wr j w = (b.wr j w).wr i v := by
  by_cases hi13 : i = 13
  · subst hi13; exact b.wr_shape_comm h.symm v w
  by_cases hj13 : j = 13
  · subst hj13; exact (b.wr_shape_comm h w v).symm
  rcases Nat.lt_or_ge 15 i.toNat with hi | hi
  · simp only [Block.wr_of_lt _ _ hi]
  rcases Nat.lt_or_ge 15 j.toNat with hj | hj
  · simp only [Block.wr_of_lt _ _ hj]
  have hne : (⟨i.toNat, by omega⟩ : Fin 16) ≠ ⟨j.toNat, by omega⟩ := fun e =>
    h (BitVec.eq_of_toNat_eq (Fin.mk.inj e))
  simp only [Block.wr_of_le _ _ hi hi13, Block.wr_of_le _ _ hj hj13, Block.store_comm _ hne]

/-- `WR`s to different indices commute on the whole state (R63). -/
theorem State.apply_wr_comm (s : State) {i j : Byte} (h : i ≠ j) (v w : Byte) :
    (s.apply (.wr i v)).apply (.wr j w) = (s.apply (.wr j w)).apply (.wr i v) := by
  simp only [State.apply, Block.apply, Block.wr_comm _ h]

/-! ### The statement -/

/-- The fold over a batch with each index at most once does not see the order of its writes: two of its writes are one
and the same or have different indices. -/
theorem foldl_batch_perm {ws ws' : List (Byte × Byte)} (hp : ws.Perm ws')
    (hwf : (Event.batch ws).wellFormed = true) (s : State) :
    (Event.batch ws).ops.foldl State.apply s = (Event.batch ws').ops.foldl State.apply s := by
  have hnodup : (ws.map fun p => p.1).Nodup := of_decide_eq_true hwf
  simp only [Event.ops, List.foldl_map]
  refine hp.foldl_eq' (fun p hpm q hqm t => ?_) s
  by_cases hidx : p.1 = q.1
  · rw [List.inj_on_of_nodup_map hnodup hpm hqm hidx]
  · exact t.apply_wr_comm hidx p.2 q.2

/-- Settles O19: both lists run as the fold of the general rules, and the two folds are equal. -/
theorem batchOrderIsImmaterial : Obligations.BatchOrderIsImmaterial := by
  intro ws ws' s hp hwf
  refine ⟨_, execAll_map_toInstr _ s, ?_⟩
  rw [foldl_batch_perm hp hwf, execAll_map_toInstr]

end Sys2Proof.Machine
end

section
/-! PROOF. Words, operations and opcode-table rows (spec/30_encoding.md R71 to R74, R88): a word is its three fields;
its tag alone selects the operation; and the row it takes is found by what the two masks of the table keep of it. -/

namespace Sys2Proof

/-! ### A word and its fields -/

/-- A word is built from its own fields (R71). -/
theorem OpWord.ofFields_fields (w : OpWord) : OpWord.ofFields w.tag w.idx w.val = w := by
  apply BitVec.eq_of_getLsbD_eq
  intro k hk
  rw [OpWord.getLsbD_ofFields]
  split_ifs with h8 h16
  · simp [OpWord.val, h8]
  · have hin : k - 8 < 8 := by omega
    have hsum : 8 + (k - 8) = k := by omega
    simp [OpWord.idx, hin, hsum]
  · have hin : k - 16 < 2 := by omega
    have hsum : 16 + (k - 16) = k := by omega
    simp [OpWord.tag, hin, hsum]

/-- The number that a built word is (R71). -/
theorem OpWord.toNat_ofFields (t : BitVec 2) (i v : Byte) :
    (OpWord.ofFields t i v).toNat = 0x10000 * t.toNat + 256 * i.toNat + v.toNat := by
  simp only [OpWord.ofFields, BitVec.toNat_append]
  rw [← Nat.shiftLeft_add_eq_or_of_lt i.isLt, ← Nat.shiftLeft_add_eq_or_of_lt v.isLt, Nat.shiftLeft_eq,
    Nat.shiftLeft_eq]
  omega

/-- Every word is of one of the four formats (R71). -/
theorem OpWord.format_cases {P : OpWord → Prop} (write : ∀ i v, P (OpWord.ofFields tagW i v))
    (read : ∀ i x, P (OpWord.ofFields tagR i x)) (tick : ∀ x y, P (OpWord.ofFields tagT x y))
    (reset : ∀ x y, P (OpWord.ofFields tagZ x y)) (w : OpWord) : P w := by
  have htag : ∀ t : BitVec 2, t = tagW ∨ t = tagR ∨ t = tagT ∨ t = tagZ := by decide
  rw [← w.ofFields_fields]
  rcases htag w.tag with h | h | h | h <;> rw [h]
  · exact write _ _
  · exact read _ _
  · exact tick _ _
  · exact reset _ _

/-! ### Decoding by the tag -/

theorem decode_ofFields_tagW (i v : Byte) : decode (OpWord.ofFields tagW i v) = Instr.ofWrite i v := by
  simp [decode, decodeOp, Op.toInstr]

theorem decode_ofFields_tagR (i x : Byte) : decode (OpWord.ofFields tagR i x) = Instr.ofRead i := by
  simp [decode, decodeOp, Op.toInstr, tagW, tagR]

theorem decode_ofFields_tagT (x y : Byte) : decode (OpWord.ofFields tagT x y) = .tick := by
  simp [decode, decodeOp, Op.toInstr, tagW, tagR, tagT]

theorem decode_ofFields_tagZ (x y : Byte) : decode (OpWord.ofFields tagZ x y) = .reset := by
  simp [decode, decodeOp, Op.toInstr, tagW, tagR, tagT, tagZ]

/-- Below 0x10000 stand the words of format W, below 0x20000 those of formats W and R (R71). -/
theorem OpWord.ofFields_lt_iff (t : BitVec 2) (i v : Byte) :
    ((OpWord.ofFields t i v).toNat < 0x10000 ↔ t.toNat < 1) ∧
      ((OpWord.ofFields t i v).toNat < 0x20000 ↔ t.toNat < 2) := by
  rw [OpWord.toNat_ofFields]
  omega

/-- Encoding a decoded word clears the bits that its format ignores, and no other (R71). -/
theorem encode_decode_eq_mask (w : OpWord) :
    encode (decode w) =
      if w.toNat < 0x10000 then w else if w.toNat < 0x20000 then w &&& 0x3FF00 else w &&& 0x30000 := by
  cases w using OpWord.format_cases <;> simp only [OpWord.ofFields_lt_iff]
  case write i v =>
    rw [if_pos (by decide), decode_ofFields_tagW, encode, Instr.toOp_ofWrite, encodeOp]
  case read i x =>
    rw [if_neg (by decide), if_pos (by decide), (OpWord.mask_ofFields _ _ _).1, decode_ofFields_tagR, encode,
      Instr.toOp_ofRead, encodeOp]
  case tick x y =>
    rw [if_neg (by decide), if_neg (by decide), (OpWord.mask_ofFields _ _ _).2, decode_ofFields_tagT]
    rfl
  case reset x y =>
    rw [if_neg (by decide), if_neg (by decide), (OpWord.mask_ofFields _ _ _).2, decode_ofFields_tagZ]
    rfl

/-- Settles O2: the four tags decode by their own lemmas, and encoding a decoded word clears the ignored bits. -/
theorem ignoredBitsDoNotMatter : Obligations.IgnoredBitsDoNotMatter :=
  ⟨decode_ofFields_tagW, decode_ofFields_tagR, decode_ofFields_tagT, decode_ofFields_tagZ, encode_decode_eq_mask⟩

/-- Settles O5: the word of a write is its fields' number with tag 0; the worked word is evaluated. -/
theorem writeWordIsTheBytePair : Obligations.WriteWordIsTheBytePair := by
  refine ⟨fun idx val => ?_, by decide, by decide⟩
  simp [encodeOp, OpWord.toNat_ofFields, tagW]

/-! ### The instruction of an index -/

/-- An index addresses one of the sixteen registers or is out of range (R50). -/
theorem register_or_outOfRange (i : Byte) : (∃ k : Fin 16, i = BitVec.ofNat 8 k) ∨ outOfRange i = true := by
  rcases Nat.lt_or_ge 15 i.toNat with h | h
  · exact .inr (decide_eq_true h)
  · exact .inl ⟨⟨i.toNat, by omega⟩, by simp⟩

theorem Instr.ofWrite_of_outOfRange {i : Byte} (v : Byte) (h : outOfRange i = true) :
    Instr.ofWrite i v = .wrOor i v := by
  unfold Instr.ofWrite
  split
  case h_17 => rfl
  all_goals
    rename_i hi
    simp [outOfRange, hi] at h

theorem Instr.ofRead_of_outOfRange {i : Byte} (h : outOfRange i = true) : Instr.ofRead i = .rdOor i := by
  unfold Instr.ofRead
  split
  case h_17 => rfl
  all_goals
    rename_i hi
    simp [outOfRange, hi] at h

theorem Instr.wellFormed_ofWrite (i v : Byte) : (Instr.ofWrite i v).wellFormed = true := by
  rcases register_or_outOfRange i with ⟨k, rfl⟩ | h
  · fin_cases k <;> rfl
  · rw [Instr.ofWrite_of_outOfRange v h]; exact h

theorem Instr.wellFormed_ofRead (i : Byte) : (Instr.ofRead i).wellFormed = true := by
  rcases register_or_outOfRange i with ⟨k, rfl⟩ | h
  · fin_cases k <;> rfl
  · rw [Instr.ofRead_of_outOfRange h]; exact h

/-- Every abstract operation is a well-formed instruction. -/
theorem Op.wellFormed_toInstr (op : Op) : op.toInstr.wellFormed = true := by
  cases op with
  | wr i v => exact Instr.wellFormed_ofWrite i v
  | rd i => exact Instr.wellFormed_ofRead i
  | tick => rfl
  | reset => rfl

/-! ### Which rows accept a word -/

/-- The table has two masks: that of a single register and that of a whole format (R88). -/
theorem mask_of_mem_opcodeTable : ∀ r ∈ opcodeTable, r.mask = 0x3FF00 ∨ r.mask = 0x30000 := by decide

/-- A row of a single register compares tag and index. -/
theorem OpcodeRow.accepts_of_registerMask {r : OpcodeRow} (h : r.mask = 0x3FF00) (t : BitVec 2) (i v : Byte) :
    r.accepts (OpWord.ofFields t i v) = (OpWord.ofFields t i 0 == r.pattern) := by
  rw [OpcodeRow.accepts, h, (OpWord.mask_ofFields t i v).1]

/-- A row of a whole format compares the tag. -/
theorem OpcodeRow.accepts_of_formatMask {r : OpcodeRow} (h : r.mask = 0x30000) (t : BitVec 2) (i v : Byte) :
    r.accepts (OpWord.ofFields t i v) = (OpWord.ofFields t 0 0 == r.pattern) := by
  rw [OpcodeRow.accepts, h, (OpWord.mask_ofFields t i v).2]

/-- No row looks at the low byte, so the row that a word takes does not depend on it. -/
theorem firstRow_ofFields_val (t : BitVec 2) (i v : Byte) :
    firstRow (OpWord.ofFields t i v) = firstRow (OpWord.ofFields t i 0) := by
  refine List.find?_congr fun r hr => ?_
  rcases mask_of_mem_opcodeTable r hr with h | h
  · simp only [OpcodeRow.accepts_of_registerMask h]
  · simp only [OpcodeRow.accepts_of_formatMask h]

/-- A row of the table rejects every word of another tag. -/
theorem OpcodeRow.rejects_of_tag_ne {r : OpcodeRow} (hr : r ∈ opcodeTable) {t : BitVec 2} (ht : r.pattern.tag ≠ t)
    (i v : Byte) : r.accepts (OpWord.ofFields t i v) = false := by
  rcases mask_of_mem_opcodeTable r hr with h | h
  · rw [OpcodeRow.accepts_of_registerMask h, beq_eq_false_iff_ne]
    exact fun e => ht (by rw [← e, OpWord.tag_ofFields])
  · rw [OpcodeRow.accepts_of_formatMask h, beq_eq_false_iff_ne]
    exact fun e => ht (by rw [← e, OpWord.tag_ofFields])

/-- A row of a single register rejects every word with another index. -/
theorem OpcodeRow.rejects_of_idx_ne {r : OpcodeRow} (h : r.mask = 0x3FF00) {i : Byte} (hi : r.pattern.idx ≠ i)
    (t : BitVec 2) (v : Byte) : r.accepts (OpWord.ofFields t i v) = false := by
  rw [OpcodeRow.accepts_of_registerMask h, beq_eq_false_iff_ne]
  exact fun e => hi (by rw [← e, OpWord.idx_ofFields])

/-! ### The first row that accepts a word -/

/-- A row that accepts a word, with none before it that does, is the row the word takes. -/
theorem firstRow_eq_some {n : Nat} {r : OpcodeRow} {w : OpWord} (hr : opcodeTable[n]? = some r)
    (hacc : r.accepts w = true) (hpre : ∀ q ∈ opcodeTable.take n, q.accepts w = false) : firstRow w = some r := by
  obtain ⟨hn, rfl⟩ := List.getElem?_eq_some_iff.mp hr
  refine List.find?_eq_some_iff_getElem.mpr ⟨hacc, n, hn, rfl, fun j hj => ?_⟩
  rw [hpre _ (List.mem_take_iff_getElem.mpr ⟨j, by omega, rfl⟩)]
  rfl

/-- A word takes the row of its own format when every row before that one is of another tag, or of a single register
while the word's index has none. -/
theorem firstRow_formatRow {n : Nat} {r : OpcodeRow} {t : BitVec 2} {i : Byte} (v : Byte)
    (hr : opcodeTable[n]? = some r) (hmask : r.mask = 0x30000) (hpat : OpWord.ofFields t 0 0 = r.pattern)
    (hpre : ∀ q ∈ opcodeTable.take n, q.pattern.tag ≠ t ∨ q.mask = 0x3FF00 ∧ q.pattern.idx ≠ i) :
    firstRow (OpWord.ofFields t i v) = some r := by
  refine firstRow_eq_some hr (by rw [OpcodeRow.accepts_of_formatMask hmask, hpat, beq_self_eq_true]) fun q hq => ?_
  rcases hpre q hq with ht | ⟨hreg, hi⟩
  · exact OpcodeRow.rejects_of_tag_ne (List.mem_of_mem_take hq) ht i v
  · exact OpcodeRow.rejects_of_idx_ne hreg hi t v

/-! ### The row of each instruction -/

/-- The word takes the row of the instruction's constructor, and the instruction is the one that row makes of it. -/
def TakesRow (w : OpWord) (i : Instr) : Prop :=
  ∃ r, firstRow w = some r ∧ i = r.make w ∧ opcodeTable[i.rowNumber]? = some r

/-- The rows before `WR.OOR` and, of tag R, those before `RD.OOR` are the rows of the sixteen registers. -/
theorem registerRows_before_outOfRange :
    (∀ q ∈ opcodeTable.take 16, q.pattern.tag ≠ tagW ∨ q.mask = 0x3FF00 ∧ outOfRange q.pattern.idx = false) ∧
    ∀ q ∈ opcodeTable.take 33, q.pattern.tag ≠ tagR ∨ q.mask = 0x3FF00 ∧ outOfRange q.pattern.idx = false := by
  decide

theorem ne_of_outOfRange {i j : Byte} (hj : outOfRange j = false) (hi : outOfRange i = true) : j ≠ i := by
  rintro rfl
  simp [hj] at hi

/-- A write takes the row of its register, `WR.OOR` where its index has none (R74). -/
theorem takesRow_ofWrite (i v : Byte) : TakesRow (OpWord.ofFields tagW i v) (Instr.ofWrite i v) := by
  rcases register_or_outOfRange i with ⟨k, rfl⟩ | hi
  · rw [TakesRow, firstRow_ofFields_val]
    fin_cases k <;> exact ⟨_, rfl, by simp only [OpWord.val_ofFields]; rfl, rfl⟩
  · rw [Instr.ofWrite_of_outOfRange v hi]
    refine ⟨_, firstRow_formatRow (n := 16) v rfl rfl rfl fun q hq => ?_, by simp, rfl⟩
    exact (registerRows_before_outOfRange.1 q hq).imp_right (.imp_right (ne_of_outOfRange · hi))

/-- A read takes the row of its register, `RD.OOR` where its index has none (R74). -/
theorem takesRow_ofRead (i x : Byte) : TakesRow (OpWord.ofFields tagR i x) (Instr.ofRead i) := by
  rcases register_or_outOfRange i with ⟨k, rfl⟩ | hi
  · rw [TakesRow, firstRow_ofFields_val]
    fin_cases k <;> exact ⟨_, rfl, rfl, rfl⟩
  · rw [Instr.ofRead_of_outOfRange hi]
    refine ⟨_, firstRow_formatRow (n := 33) x rfl rfl rfl fun q hq => ?_, by simp, rfl⟩
    exact (registerRows_before_outOfRange.2 q hq).imp_right (.imp_right (ne_of_outOfRange · hi))

theorem takesRow_tick (x y : Byte) : TakesRow (OpWord.ofFields tagT x y) .tick := by
  have hpre : ∀ q ∈ opcodeTable.take 34, q.pattern.tag ≠ tagT := by decide
  exact ⟨_, firstRow_formatRow (n := 34) y rfl rfl rfl fun q hq => .inl (hpre q hq), rfl, rfl⟩

theorem takesRow_reset (x y : Byte) : TakesRow (OpWord.ofFields tagZ x y) .reset := by
  have hpre : ∀ q ∈ opcodeTable.take 35, q.pattern.tag ≠ tagZ := by decide
  exact ⟨_, firstRow_formatRow (n := 35) y rfl rfl rfl fun q hq => .inl (hpre q hq), rfl, rfl⟩

/-- The decoder agrees with the first-match reading of the table (R74). -/
theorem takesRow_decode (w : OpWord) : TakesRow w (decode w) := by
  cases w using OpWord.format_cases with
  | write i v => rw [decode_ofFields_tagW]; exact takesRow_ofWrite i v
  | read i x => rw [decode_ofFields_tagR]; exact takesRow_ofRead i x
  | tick x y => rw [decode_ofFields_tagT]; exact takesRow_tick x y
  | reset x y => rw [decode_ofFields_tagZ]; exact takesRow_reset x y

/-- Settles O3: the decoded instruction is that of an abstract operation, so well formed, and takes the first row that
accepts the word. -/
theorem decodeTakesFirstTableRow : Obligations.DecodeTakesFirstTableRow :=
  ⟨rfl, fun w => ⟨(decodeOp w).wellFormed_toInstr, takesRow_decode w⟩⟩

end Sys2Proof
end

section
/-! PROOF. The rows of the register operations, by register number (spec/30_encoding.md R71, R74;
spec/40_register_ops.md R100 to R122): the words of each row, and the shared operation that it runs. -/

namespace Sys2Proof.Machine

/-! ### Words -/

/-- A word built from fields is the word of its number (R71). -/
theorem ofNat_eq_ofFields (t : BitVec 2) (i v : Byte) :
    BitVec.ofNat 18 (0x10000 * t.toNat + 256 * i.toNat + v.toNat) = OpWord.ofFields t i v := by
  rw [← OpWord.toNat_ofFields, BitVec.ofNat_toNat, BitVec.setWidth_eq]

/-- The number `256 * idx + val` is the word of a write (R71, R72). -/
theorem ofNat_eq_writeWord (i v : Byte) :
    BitVec.ofNat 18 (256 * i.toNat + v.toNat) = OpWord.ofFields tagW i v := by
  rw [← ofNat_eq_ofFields]; simp [tagW]

/-- The number `0x10000 + 256 * idx + x` is a word of a read, whatever the ignored byte x (R71). -/
theorem ofNat_eq_readWord (i x : Byte) :
    BitVec.ofNat 18 (0x10000 + 256 * i.toNat + x.toNat) = OpWord.ofFields tagR i x := by
  rw [← ofNat_eq_ofFields]; simp [tagR]

@[simp] theorem indexByte_toNat (k : Fin 16) : (indexByte k).toNat = k.val :=
  Nat.mod_eq_of_lt (by omega)

theorem indexByte_eq_shape_iff {k : Fin 16} : indexByte k = 13 ↔ k = regEnvShape := by decide +revert

/-- An index up to 15 is the index byte of a register (R50). -/
theorem exists_indexByte {i : Byte} (h : i.toNat ≤ 15) : ∃ k : Fin 16, i = indexByte k :=
  ⟨⟨i.toNat, by omega⟩, BitVec.eq_of_toNat_eq (by simp)⟩

/-- An index is out of range, that of the shape, or that of another register. -/
theorem index_cases {P : Byte → Prop} (oor : ∀ i : Byte, 15 < i.toNat → P i) (shape : P 13)
    (register : ∀ k, k ≠ regEnvShape → P (indexByte k)) (i : Byte) : P i := by
  rcases Nat.lt_or_ge 15 i.toNat with h | h
  · exact oor i h
  · obtain ⟨k, rfl⟩ := exists_indexByte h
    by_cases hk : k = regEnvShape
    · rw [indexByte_eq_shape_iff.mpr hk]; exact shape
    · exact register k hk

/-- The words of the write row of register k, both ways (R71, R88). -/
theorem encodedAs_ofWrite (k : Fin 16) : EncodedAs (256 * k.val) (Instr.ofWrite (indexByte k)) := by
  intro v
  rw [← indexByte_toNat k, ofNat_eq_writeWord]
  exact ⟨decode_ofFields_tagW _ _, by rw [encode, Instr.toOp_ofWrite, encodeOp]⟩

/-- Every word of the read row of register k, whatever its low byte (R71, R88). -/
theorem decode_readWord (k : Fin 16) (x : Byte) :
    decode (BitVec.ofNat 18 (0x10000 + 256 * k.val + x.toNat)) = Instr.ofRead (indexByte k) := by
  rw [← indexByte_toNat k, ofNat_eq_readWord, decode_ofFields_tagR]

/-! ### The shared operation of a row -/

/-- A write by the general rule returns nothing and does its work on the block (R101). -/
theorem State.apply_wr (i v : Byte) (s : State) : s.apply (.wr i v) = s.act (Block.wr i v) := rfl

/-- `WR` to a register other than `R[13]` is the store alone (R101). -/
theorem Block.wr_register (b : Block) {k : Fin 16} (h : k ≠ regEnvShape) (v : Byte) :
    b.wr (indexByte k) v = b.store k v := by
  have hle : (indexByte k).toNat ≤ 15 := by rw [indexByte_toNat]; omega
  rw [Block.wr_of_le b v hle (h ∘ indexByte_eq_shape_iff.mp)]
  simp only [indexByte_toNat]

/-- The write row of a register other than `R[13]` is the plain store (R101). -/
theorem exec_ofWrite_register {k : Fin 16} (h : k ≠ regEnvShape) (v : Byte) (s : State) :
    exec (Instr.ofWrite (indexByte k) v) s = .next (s.writeReg k v) := by
  rw [exec_ofWrite, State.apply_wr, State.writeReg, State.act, Block.wr_register _ h, State.act]

/-- The read of a register by the general rule (R120). -/
theorem State.apply_rd_register (k : Fin 16) (s : State) : s.apply (.rd (indexByte k)) = s.readReg k := by
  have hle : (indexByte k).toNat ≤ 15 := by rw [indexByte_toNat]; omega
  rw [State.apply, dif_pos hle]
  simp only [indexByte_toNat]
  rfl

/-- The read row of a register returns its byte (R120). -/
theorem exec_ofRead_register (k : Fin 16) (s : State) :
    exec (Instr.ofRead (indexByte k)) s = .next (s.readReg k) := by
  rw [exec_ofRead, State.apply_rd_register]

/-! ### Out-of-range rows and register reads -/

/-- Settles O17: the word of a write with an index above 15 decodes to the dropped write. -/
theorem outOfRangeWriteIsDropped : Obligations.OutOfRangeWriteIsDropped := by
  intro idx val h
  refine ⟨?_, fun s => ⟨s.dropWrite, rfl, rfl, rfl, rfl, rfl⟩⟩
  rw [ofNat_eq_writeWord, decode_ofFields_tagW, Instr.ofWrite_of_outOfRange val (decide_eq_true h)]

/-- Settles O21: the word of a read with an index above 15 decodes to the read of a free byte. -/
theorem outOfRangeReadReturnsSomeByte : Obligations.OutOfRangeReadReturnsSomeByte := by
  intro idx x h
  refine ⟨?_, fun s => ⟨s.readFree, rfl, ⟨_, rfl⟩, rfl, rfl⟩⟩
  rw [ofNat_eq_readWord, decode_ofFields_tagR, Instr.ofRead_of_outOfRange (decide_eq_true h)]

end Sys2Proof.Machine
end

section
/-! PROOF. What a store leaves and changes: its frame, the operand fields, and the next tick
(spec/40_register_ops.md R102 to R117, R119; spec/30_encoding.md R76; spec/41_tone.md R132). -/

namespace Sys2Proof.Machine

/-! ### The frame of a store -/

theorem storesOnly_writeReg (k : Fin 16) (v : Byte) (s : State) : StoresOnly k v s (s.writeReg k v) :=
  ⟨Block.store_get_same _ k v, fun j hj => Block.store_get_other _ k j v hj, ⟨rfl, rfl, rfl⟩, rfl, rfl, rfl⟩

/-- Writes of two values to one register from one state differ in that register alone. -/
theorem otherRegsKept_writeReg_writeReg (k : Fin 16) (v w : Byte) (s : State) :
    OtherRegsKept k (s.writeReg k v) (s.writeReg k w) := fun j hj =>
  (Block.store_get_other _ k j w hj).trans (Block.store_get_other _ k j v hj).symm

/-- A write of the byte that the register holds keeps the block (R119 (b)). -/
theorem writeReg_block_of_held {k : Fin 16} {v : Byte} {s : State} (h : s.block.regs[k] = v) :
    (s.writeReg k v).block = s.block := by
  rw [State.writeReg_block, ← h, Block.store_held]

/-! ### The periods after a store -/

theorem regTonePeriodL_ne_high (c d : Fin 3) : regTonePeriodL c ≠ regTonePeriodH d := by decide +revert

theorem regTonePeriodL_injective {c d : Fin 3} (h : regTonePeriodL d = regTonePeriodL c) : d = c := by
  decide +revert

theorem regTonePeriodH_injective {c d : Fin 3} (h : regTonePeriodH d = regTonePeriodH c) : d = c := by
  decide +revert

theorem Block.tonePeriod_store_low (b : Block) (c : Fin 3) (v : Byte) :
    ((b.store (regTonePeriodL c) v).tonePeriod c).toNat = (b.tonePeriod c).toNat / 256 * 256 + v.toNat := by
  have hlow := (b.regs[regTonePeriodL c]).isLt
  simp only [Block.tonePeriod_toNat, Block.store_get_same,
    Block.store_get_other _ _ _ _ (regTonePeriodL_ne_high c c).symm]
  omega

theorem Block.tonePeriod_store_high (b : Block) (c : Fin 3) (v : Byte) :
    ((b.store (regTonePeriodH c) v).tonePeriod c).toNat = v.toNat % 16 * 256 + (b.tonePeriod c).toNat % 256 := by
  have hlow := (b.regs[regTonePeriodL c]).isLt
  simp only [Block.tonePeriod_toNat, Block.store_get_same,
    Block.store_get_other _ _ _ _ (regTonePeriodL_ne_high c c)]
  omega

theorem Block.noisePeriod_store (b : Block) (v : Byte) :
    (b.store regNoisePeriod v).noisePeriod.toNat = v.toNat % 32 := by
  rw [Block.noisePeriod_toNat, Block.store_get_same]

theorem Block.envPeriod_store_low (b : Block) (v : Byte) :
    (b.store regEnvPeriodL v).envPeriod.toNat = b.envPeriod.toNat / 256 * 256 + v.toNat := by
  have hlow := (b.regs[regEnvPeriodL]).isLt
  have hne : regEnvPeriodH ≠ regEnvPeriodL := by decide
  simp only [Block.envPeriod_toNat, Block.store_get_same, Block.store_get_other _ _ _ _ hne]
  omega

theorem Block.envPeriod_store_high (b : Block) (v : Byte) :
    (b.store regEnvPeriodH v).envPeriod.toNat = v.toNat * 256 + b.envPeriod.toNat % 256 := by
  have hlow := (b.regs[regEnvPeriodL]).isLt
  have hne : regEnvPeriodL ≠ regEnvPeriodH := by decide
  simp only [Block.envPeriod_toNat, Block.store_get_same, Block.store_get_other _ _ _ _ hne]
  omega

section
variable (b : Block) {k : Fin 16} (c : Fin 3) (v : Byte)

theorem Block.tonePeriod_store_other (hl : regTonePeriodL c ≠ k) (hh : regTonePeriodH c ≠ k) :
    (b.store k v).tonePeriod c = b.tonePeriod c := by
  rw [Block.tonePeriod, Block.store_get_other _ _ _ _ hl, Block.store_get_other _ _ _ _ hh, Block.tonePeriod]

theorem Block.noisePeriod_store_other (h : regNoisePeriod ≠ k) : (b.store k v).noisePeriod = b.noisePeriod := by
  rw [Block.noisePeriod, Block.store_get_other _ _ _ _ h, Block.noisePeriod]

theorem Block.envPeriod_store_other (hl : regEnvPeriodL ≠ k) (hh : regEnvPeriodH ≠ k) :
    (b.store k v).envPeriod = b.envPeriod := by
  rw [Block.envPeriod, Block.store_get_other _ _ _ _ hl, Block.store_get_other _ _ _ _ hh, Block.envPeriod]

end

/-! ### The next tick -/

theorem exec_tick (s : State) : exec .tick s = .next (s.act Block.tick) := rfl

/-- A tone period at or below count + 1 makes the next tick an expiry (R136 (a)). -/
theorem nextTickExpires_of_le {c : Fin 3} {t : State}
    (h : (t.block.tonePeriod c).toNat ≤ (t.block.tone[c]).cnt.toNat + 1) : NextTickExpires c t := by
  have hge : effTonePeriod (t.block.tonePeriod c) ≤ (t.block.tone[c]).cnt.toNat + 1 := by
    rw [effTonePeriod]; omega
  have hstep : t.block.tick.tone[c] = ⟨0, BitVec.ofNat 5 (((t.block.tone[c]).phase.toNat + 1) % 32)⟩ := by
    rw [Block.tick_tone, Tone.step_of_ge _ _ hge]
  have hphase : (t.block.tick.tone[c]).phase.toNat = ((t.block.tone[c]).phase.toNat + 1) % 32 := by
    rw [hstep, BitVec.toNat_ofNat, Nat.mod_mod]
  exact ⟨_, exec_tick t, congrArg Tone.cnt hstep, hphase⟩

/-- Whatever the state, the next tick compares the envelope count with the period in force (R146). -/
theorem nextTickCountsEnvelope (t : State) : NextTickCountsEnvelope t := by
  refine ⟨_, exec_tick t, Envelope.step_of_ge _ _, fun h => ?_⟩
  obtain ⟨hstep, hcnt⟩ := Envelope.step_of_lt _ _ h
  exact ⟨hcnt, (congrArg Envelope.level hstep :)⟩

/-- At the next tick the noise count is compared with the period in force, 0 acting as 1 (R162). -/
theorem nextTickCountsNoise (t : State) :
    (2 * max 1 t.block.noisePeriod.toNat ≤ t.block.noise.cnt.toNat + 1 → ExecGives .tick t fun u =>
      u.block.noise.cnt = 0 ∧ u.block.noise.lfsr = lfsrNext t.block.noise.lfsr) ∧
    (t.block.noise.cnt.toNat + 1 < 2 * max 1 t.block.noisePeriod.toNat → ExecGives .tick t fun u =>
      u.block.noise.cnt.toNat = t.block.noise.cnt.toNat + 1 ∧ u.block.noise.lfsr = t.block.noise.lfsr) := by
  refine ⟨fun h => ⟨_, exec_tick t, ?_⟩, fun h => ⟨_, exec_tick t, Noise.step_of_lt _ _ h⟩⟩
  have hstep : t.block.tick.noise = ⟨0, lfsrNext t.block.noise.lfsr⟩ := Noise.step_of_ge _ _ h
  exact ⟨congrArg Noise.cnt hstep, congrArg Noise.lfsr hstep⟩

/-- Blocks with equal generators and equal periods have equal generators after a tick (R186). -/
theorem Block.tick_tone_congr {b b' : Block} (htone : b'.tone = b.tone)
    (hper : ∀ c, b'.tonePeriod c = b.tonePeriod c) : b'.tick.tone = b.tick.tone := by
  ext1 c hc
  have h : b'.tick.tone[(⟨c, hc⟩ : Fin 3)] = b.tick.tone[(⟨c, hc⟩ : Fin 3)] := by
    simp only [Block.tick_tone, htone, hper]
  exact h

/-- After a write of a register that holds no period, a tick steps the generators as without it. -/
theorem generatorsKept_tick_writeReg {k : Fin 16} (htone : ∀ c, regTonePeriodL c ≠ k ∧ regTonePeriodH c ≠ k)
    (hnoise : regNoisePeriod ≠ k) (henv : regEnvPeriodL ≠ k ∧ regEnvPeriodH ≠ k) (v : Byte) (s : State) :
    GeneratorsKept (s.act Block.tick) ((s.writeReg k v).act Block.tick) := by
  refine ⟨Block.tick_tone_congr rfl fun c => ?_, ?_, ?_⟩
  · exact Block.tonePeriod_store_other s.block c v (htone c).1 (htone c).2
  · simp only [State.act_block, State.writeReg_block, Block.tick_noise, Block.store_noise,
      Block.noisePeriod_store_other s.block v hnoise]
  · simp only [State.act_block, State.writeReg_block, Block.tick_env, Block.store_env,
      Block.envPeriod_store_other s.block v henv.1 henv.2]

end Sys2Proof.Machine
end

section
/-! PROOF. What a write of a mixer or volume register does to the outputs (spec/40_register_ops.md R109 to R112, R116,
R117; spec/44_mixer_dac.md R171 to R174). -/

namespace Sys2Proof.Machine

/-! ### The fields the outputs read -/

theorem regVolume_ne_mixer (c : Fin 3) : regVolume c ≠ regMixer := by decide +revert

theorem regVolume_injective {c d : Fin 3} (h : regVolume d = regVolume c) : d = c := by decide +revert

/-- A bit of a byte is the parity of its number shifted down. -/
theorem getLsbD_eq_oddBit (v : Byte) (n : Nat) : v.getLsbD n = oddBit (v.toNat / 2 ^ n) := by
  rw [BitVec.getLsbD, Nat.testBit_eq_decide_div_mod_eq]
  rfl

/-- Bytes with equal low n bits agree in each of these bits. -/
theorem getLsbD_eq_of_mod_eq {v w : Byte} {n i : Nat} (h : w.toNat % 2 ^ n = v.toNat % 2 ^ n) (hi : i < n) :
    w.getLsbD i = v.getLsbD i := by
  have hbit := congrArg (Nat.testBit · i) h
  simpa only [Nat.testBit_mod_two_pow, hi, decide_true, Bool.true_and, BitVec.testBit_toNat] using hbit

theorem Block.toneOff_store_mixer (b : Block) (v : Byte) (c : Fin 3) :
    (b.store regMixer v).toneOff c = v.getLsbD c.val := by
  rw [Block.toneOff, Block.store_get_same]

theorem Block.noiseOff_store_mixer (b : Block) (v : Byte) (c : Fin 3) :
    (b.store regMixer v).noiseOff c = v.getLsbD (3 + c.val) := by
  rw [Block.noiseOff, Block.store_get_same]

theorem Block.fixedLevel_store (b : Block) (c : Fin 3) (v : Byte) :
    ((b.store (regVolume c) v).fixedLevel c).toNat = v.toNat % 16 := by
  rw [Block.fixedLevel_toNat, Block.store_get_same]

theorem Block.envSelect_store (b : Block) (c : Fin 3) (v : Byte) :
    (b.store (regVolume c) v).envSelect c = v.getLsbD 4 := by
  rw [Block.envSelect, Block.store_get_same]

section
variable (b : Block) {k : Fin 16} (c : Fin 3) (v : Byte)

theorem Block.toneOff_store_other (h : regMixer ≠ k) : (b.store k v).toneOff c = b.toneOff c := by
  rw [Block.toneOff, Block.store_get_other _ _ _ _ h, Block.toneOff]

theorem Block.noiseOff_store_other (h : regMixer ≠ k) : (b.store k v).noiseOff c = b.noiseOff c := by
  rw [Block.noiseOff, Block.store_get_other _ _ _ _ h, Block.noiseOff]

theorem Block.fixedLevel_store_other (h : regVolume c ≠ k) : (b.store k v).fixedLevel c = b.fixedLevel c := by
  rw [Block.fixedLevel, Block.store_get_other _ _ _ _ h, Block.fixedLevel]

theorem Block.envSelect_store_other (h : regVolume c ≠ k) : (b.store k v).envSelect c = b.envSelect c := by
  rw [Block.envSelect, Block.store_get_other _ _ _ _ h, Block.envSelect]

theorem Block.level_store_other (h : regVolume c ≠ k) : (b.store k v).level c = b.level c := by
  simp only [Block.level, Block.envSelect_store_other b c v h, Block.fixedLevel_store_other b c v h, Block.store_env]

end

/-! ### Equal outputs -/

/-- A gate depends on its two mixer bits and its two generator bits alone (R171, R172). -/
theorem Block.gate_congr {b b' : Block} {c : Fin 3} (cfg : Config) (hmixT : b'.toneOff c = b.toneOff c)
    (hmixN : b'.noiseOff c = b.noiseOff c) (htone : b'.tone = b.tone) (hnoise : b'.noise = b.noise) :
    b'.gate cfg c = b.gate cfg c := by
  have hT : b'.toneEnabled cfg c = b.toneEnabled cfg c := by simp only [Block.toneEnabled, hmixT]
  have hN : b'.noiseEnabled cfg c = b.noiseEnabled cfg c := by simp only [Block.noiseEnabled, hmixN]
  rw [Block.gate, hT, hN, Block.toneBit, htone, Block.noiseBit, hnoise]
  rfl

/-- The outputs depend on the mixer bits, the generator bits and the levels alone (R171 to R174). -/
theorem Block.outputs_congr {b b' : Block} (cfg : Config) (hmixT : ∀ c, b'.toneOff c = b.toneOff c)
    (hmixN : ∀ c, b'.noiseOff c = b.noiseOff c) (htone : b'.tone = b.tone) (hnoise : b'.noise = b.noise)
    (hlevel : ∀ c, b'.level c = b.level c) : b'.outputs cfg = b.outputs cfg := by
  have hout (c : Fin 3) : b'.out cfg c = b.out cfg c := by
    rw [Block.out, Block.gate_congr cfg (hmixT c) (hmixN c) htone hnoise, hlevel, Block.out]
  rw [Block.outputs, hout, hout, hout, Block.outputs]

/-- Bits 7:6 of the mixer byte change no output (R109). -/
theorem outputs_store_mixer_congr (b : Block) {v w : Byte} (h : w.toNat % 64 = v.toNat % 64) (cfg : Config) :
    (b.store regMixer w).outputs cfg = (b.store regMixer v).outputs cfg := by
  have hbit {i : Nat} (hi : i < 6) : w.getLsbD i = v.getLsbD i := getLsbD_eq_of_mod_eq h hi
  refine Block.outputs_congr cfg (fun c => ?_) (fun c => ?_) rfl rfl fun c => ?_
  · rw [Block.toneOff_store_mixer, Block.toneOff_store_mixer, hbit (by omega)]
  · rw [Block.noiseOff_store_mixer, Block.noiseOff_store_mixer, hbit (by omega)]
  · rw [Block.level_store_other b c w (regVolume_ne_mixer c), Block.level_store_other b c v (regVolume_ne_mixer c)]

/-- With envelope select set the fixed level of a volume byte changes no output (R110). -/
theorem outputs_store_volume_congr (b : Block) (c : Fin 3) {v w : Byte} (hv : v.getLsbD 4 = true)
    (hw : w.getLsbD 4 = true) (cfg : Config) :
    (b.store (regVolume c) w).outputs cfg = (b.store (regVolume c) v).outputs cfg := by
  have h7 := (regVolume_ne_mixer c).symm
  refine Block.outputs_congr cfg (fun d => ?_) (fun d => ?_) rfl rfl fun d => ?_
  · rw [Block.toneOff_store_other b d w h7, Block.toneOff_store_other b d v h7]
  · rw [Block.noiseOff_store_other b d w h7, Block.noiseOff_store_other b d v h7]
  · by_cases hd : d = c
    · subst hd
      simp only [Block.level, Block.envSelect_store, hv, hw, Block.store_env, if_true]
    · have hne : regVolume d ≠ regVolume c := fun e => hd (regVolume_injective e)
      rw [Block.level_store_other b d w hne, Block.level_store_other b d v hne]

/-- A store to a register above the volumes changes no output (R116, R117). -/
theorem outputs_store_other (b : Block) {k : Fin 16} (h : 10 < k.val) (v : Byte) (cfg : Config) :
    (b.store k v).outputs cfg = b.outputs cfg := by
  have hne (j : Fin 16) (hj : j.val ≤ 10) : j ≠ k := fun e => by omega
  have h7 : regMixer ≠ k := hne _ (by decide)
  have hvol (c : Fin 3) : regVolume c ≠ k := hne _ (by simp only [regVolume]; omega)
  exact Block.outputs_congr cfg (fun c => Block.toneOff_store_other b c v h7)
    (fun c => Block.noiseOff_store_other b c v h7) rfl rfl fun c => Block.level_store_other b c v (hvol c)

/-! ### The enables under the default polarity -/

section
variable (cfg : Config) (hpol : cfg.mixerActiveLow = true) (b : Block) (v : Byte) (c : Fin 3)
include hpol

theorem toneEnabled_store_mixer : (b.store regMixer v).toneEnabled cfg c = !oddBit (v.toNat / 2 ^ c.val) := by
  rw [Block.toneEnabled, if_pos hpol, Block.toneOff_store_mixer, getLsbD_eq_oddBit]

theorem noiseEnabled_store_mixer :
    (b.store regMixer v).noiseEnabled cfg c = !oddBit (v.toNat / 2 ^ (3 + c.val)) := by
  rw [Block.noiseEnabled, if_pos hpol, Block.noiseOff_store_mixer, getLsbD_eq_oddBit]

/-- The byte 0x3F disables both inputs, so the gate is 1 (R172). -/
theorem gate_store_mixer_disabled : (b.store regMixer 0x3F).gate cfg c = true := by
  have hodd : ∀ c : Fin 3, oddBit ((0x3F : Byte).toNat / 2 ^ c.val) = true ∧
      oddBit ((0x3F : Byte).toNat / 2 ^ (3 + c.val)) = true := by decide
  rw [Block.gate, toneEnabled_store_mixer cfg hpol, noiseEnabled_store_mixer cfg hpol, (hodd c).1, (hodd c).2]
  rfl

/-- The byte 0x00 enables both inputs (R109). -/
theorem enabled_store_mixer_zero :
    (b.store regMixer 0x00).toneEnabled cfg c = true ∧ (b.store regMixer 0x00).noiseEnabled cfg c = true := by
  have hodd : ∀ c : Fin 3, oddBit ((0x00 : Byte).toNat / 2 ^ c.val) = false ∧
      oddBit ((0x00 : Byte).toNat / 2 ^ (3 + c.val)) = false := by decide
  rw [toneEnabled_store_mixer cfg hpol, noiseEnabled_store_mixer cfg hpol, (hodd c).1, (hodd c).2]
  exact ⟨rfl, rfl⟩

end

end Sys2Proof.Machine
end

section
/-! PROOF. The statements about register operations (spec/40_register_ops.md R100 to R122). -/

namespace Sys2Proof.Machine

/-! ### Register reads -/

/-- The read row of register k is as R120 says. -/
theorem readsRegister (k : Fin 16) : ReadsRegister (Instr.ofRead (indexByte k)) k :=
  ⟨decode_readWord k, fun s => ⟨_, exec_ofRead_register k s, rfl, rfl, rfl, rfl⟩,
    _, exec_ofRead_register k State.reset, congrArg some (Block.reset_getElem_regs k k.isLt)⟩

/-- Settles O20: the sixteen rows are the read rows of the sixteen registers; the written 0xF3 reads back, its upper
half apart from the period. -/
theorem registerReads : Obligations.RegisterReads := by
  refine ⟨readsRegister 0, readsRegister 1, readsRegister 2, readsRegister 3, readsRegister 4, readsRegister 5,
    readsRegister 6, readsRegister 7, readsRegister 8, readsRegister 9, readsRegister 10, readsRegister 11,
    readsRegister 12, readsRegister 13, readsRegister 14, readsRegister 15, fun s => ?_⟩
  refine ⟨(s.writeReg (regTonePeriodH 0) 0xF3).readReg (regTonePeriodH 0), rfl, ?_, ?_⟩
  · exact congrArg some (Block.store_get_same _ _ _)
  · have hbits : (0xF3 : Byte).toNat % 16 = 3 := rfl
    rw [State.readReg_block, State.writeReg_block, Block.tonePeriod_store_high, hbits]
    omega

/-! ### Tone, noise and envelope periods -/

/-- The low half of a tone period (R102, R104, R106). -/
theorem writesTonePeriodLow (c : Fin 3) :
    WritesTonePeriodLow (Instr.ofWrite (indexByte (regTonePeriodL c))) c := by
  have hshape : regTonePeriodL c ≠ regEnvShape := by decide +revert
  have hrow : 256 * (regTonePeriodL c).val = 512 * c.val := by simp only [regTonePeriodL]; omega
  refine ⟨hrow ▸ encodedAs_ofWrite _, fun v s => ⟨_, exec_ofWrite_register hshape v s, storesOnly_writeReg _ v s,
    Block.tonePeriod_store_low _ c v, fun d hd => ?_,
    writeReg_block_of_held (k := regTonePeriodL c), nextTickExpires_of_le, fun hv hh => ?_⟩⟩
  · exact Block.tonePeriod_store_other _ d v (fun e => hd (regTonePeriodL_injective e))
      (regTonePeriodL_ne_high c d).symm
  · have h0 : ((s.writeReg (regTonePeriodL c) v).block.tonePeriod c).toNat = 0 := by
      have hlow := (s.block.regs[regTonePeriodL c]).isLt
      have hhigh : (s.block.regs[regTonePeriodH c]).toNat % 16 = 0 := hh
      have hzero : v.toNat = 0 := congrArg BitVec.toNat hv
      rw [State.writeReg_block, Block.tonePeriod_store_low, Block.tonePeriod_toNat, hhigh, hzero]
      omega
    exact ⟨h0, nextTickExpires_of_le (by omega)⟩

/-- The high half of a tone period, of which bits 7:4 do not count (R103, R105, R107). -/
theorem writesTonePeriodHigh (c : Fin 3) :
    WritesTonePeriodHigh (Instr.ofWrite (indexByte (regTonePeriodH c))) c := by
  have hshape : regTonePeriodH c ≠ regEnvShape := by decide +revert
  have hrow : 256 * (regTonePeriodH c).val = 512 * c.val + 256 := by simp only [regTonePeriodH]; omega
  refine ⟨hrow ▸ encodedAs_ofWrite _, fun v s => ⟨_, exec_ofWrite_register hshape v s, storesOnly_writeReg _ v s,
    Block.tonePeriod_store_high _ c v, fun d hd => ?_, writeReg_block_of_held (k := regTonePeriodH c),
    nextTickExpires_of_le, fun hv hl => ?_, fun w hw => ?_⟩⟩
  · exact Block.tonePeriod_store_other _ d v (regTonePeriodL_ne_high d c)
      (fun e => hd (regTonePeriodH_injective e))
  · have h0 : ((s.writeReg (regTonePeriodH c) v).block.tonePeriod c).toNat = 0 := by
      have hlow : (s.block.regs[regTonePeriodL c]).toNat = 0 := congrArg BitVec.toNat hl
      rw [State.writeReg_block, Block.tonePeriod_store_high, Block.tonePeriod_toNat, hlow, hv]
      omega
    exact ⟨h0, nextTickExpires_of_le (by omega)⟩
  · refine ⟨_, exec_ofWrite_register hshape w s, BitVec.eq_of_toNat_eq ?_,
      otherRegsKept_writeReg_writeReg _ v w s, rfl, rfl, rfl⟩
    simp only [State.writeReg_block, Block.tonePeriod_store_high, hw]

/-- Settles O10: each row is the write row of the low or high half of its channel. -/
theorem tonePeriodWrites : Obligations.TonePeriodWrites :=
  ⟨writesTonePeriodLow 0, writesTonePeriodHigh 0, writesTonePeriodLow 1, writesTonePeriodHigh 1,
    writesTonePeriodLow 2, writesTonePeriodHigh 2⟩

/-- Settles O11: the write is a store, which leaves the count to the comparison at the next tick. -/
theorem noisePeriodWrite : Obligations.NoisePeriodWrite := by
  refine ⟨encodedAs_ofWrite regNoisePeriod, fun v s => ⟨s.writeReg regNoisePeriod v, rfl, ?_⟩⟩
  have hnp := Block.noisePeriod_store s.block v
  obtain ⟨hexpire, hcount⟩ := nextTickCountsNoise (s.writeReg regNoisePeriod v)
  exact ⟨storesOnly_writeReg _ v s, hnp, hexpire, hcount, fun hv => by subst hv; exact hnp,
    fun hv => by subst hv; exact hnp⟩

/-- Settles O14: each write is a store, and the envelope count is compared at any next tick. -/
theorem envelopePeriodWrites : Obligations.EnvelopePeriodWrites := by
  refine ⟨encodedAs_ofWrite regEnvPeriodL, encodedAs_ofWrite regEnvPeriodH, fun v s => ⟨?_, ?_⟩⟩
  · exact ⟨s.writeReg regEnvPeriodL v, rfl, storesOnly_writeReg _ v s, nextTickCountsEnvelope _,
      Block.envPeriod_store_low _ v⟩
  · exact ⟨s.writeReg regEnvPeriodH v, rfl, storesOnly_writeReg _ v s, nextTickCountsEnvelope _,
      Block.envPeriod_store_high _ v⟩

/-! ### Mixer, volumes and ports -/

/-- Settles O12: the mixer fields are bits of the stored byte, which holds no period; disabling every input opens the
gate of a silent channel. -/
theorem mixerWrite : Obligations.MixerWrite := by
  refine ⟨encodedAs_ofWrite regMixer, fun v s => ⟨s.writeReg regMixer v, rfl, storesOnly_writeReg _ v s,
    fun cfg hpol c => ?_, fun w hw => ?_, ?_⟩, ?_⟩
  · exact ⟨toneEnabled_store_mixer cfg hpol _ v c, noiseEnabled_store_mixer cfg hpol _ v c,
      fun hv => hv ▸ gate_store_mixer_disabled cfg hpol _ c, fun hv => hv ▸ enabled_store_mixer_zero cfg hpol _ c⟩
  · exact ⟨s.writeReg regMixer w, rfl, outputs_store_mixer_congr s.block hw⟩
  · exact ⟨_, _, exec_tick _, exec_tick s, generatorsKept_tick_writeReg (by decide) (by decide) (by decide) v s⟩
  · exact ⟨Config.identity, State.reset.writeReg (regVolume 0) 0x0F, 0x3F, 0, _, rfl, by decide⟩

/-- Bit 4 of the bytes 0x10 to 0x1F is set: they select the envelope (R78). -/
theorem getLsbD_four_of_bounds {v : Byte} (hlo : 0x10 ≤ v.toNat) (hhi : v.toNat ≤ 0x1F) : v.getLsbD 4 = true := by
  have hone : v.toNat / 2 ^ 4 = 1 := by omega
  rw [getLsbD_eq_oddBit, hone]
  rfl

/-- With every input disabled, a write of 0x0F to a channel's volume raises its output from 0 to the top level. -/
theorem volumeWrite_changes_output : ∀ c : Fin 3,
    ((State.reset.writeReg regMixer 0x3F).writeReg (regVolume c) 0x0F).block.out Config.identity c ≠
      (State.reset.writeReg regMixer 0x3F).block.out Config.identity c := by decide

/-- The volume register of a channel (R110 to R112). -/
theorem writesVolume (c : Fin 3) : WritesVolume (Instr.ofWrite (indexByte (regVolume c))) c := by
  have hshape : regVolume c ≠ regEnvShape := by decide +revert
  have hrow : 256 * (regVolume c).val = 0x800 + 256 * c.val := by simp only [regVolume]; omega
  refine ⟨hrow ▸ encodedAs_ofWrite _, fun v s => ⟨_, exec_ofWrite_register hshape v s, storesOnly_writeReg _ v s,
    Block.fixedLevel_store _ c v, (Block.envSelect_store _ c v).trans (getLsbD_eq_oddBit v 4), fun d hd => ?_,
    fun w hvlo hvhi hwlo hwhi => ⟨_, exec_ofWrite_register hshape w s, ?_, ?_, rfl, rfl, rfl⟩⟩, ?_⟩
  · have hne : regVolume d ≠ regVolume c := fun e => hd (regVolume_injective e)
    exact ⟨Block.fixedLevel_store_other _ d v hne, Block.envSelect_store_other _ d v hne⟩
  · exact outputs_store_volume_congr s.block c (getLsbD_four_of_bounds hvlo hvhi) (getLsbD_four_of_bounds hwlo hwhi)
  · exact otherRegsKept_writeReg_writeReg _ v w s
  · exact ⟨Config.identity, State.reset.writeReg regMixer 0x3F, 0x0F, _, exec_ofWrite_register hshape _ _,
      volumeWrite_changes_output c⟩

/-- Settles O13: each row is the write row of the volume register of its channel. -/
theorem volumeWrites : Obligations.VolumeWrites := ⟨writesVolume 0, writesVolume 1, writesVolume 2⟩

/-- A write of a register above `R[13]`, which no generator and no output reads (R116, R117). -/
theorem writesStorage {k : Fin 16} (hk : 13 < k.val) : WritesStorage (Instr.ofWrite (indexByte k)) k := by
  have hne (j : Fin 16) (hj : j.val ≤ 13) : j ≠ k := fun e => by omega
  have htone (c : Fin 3) : regTonePeriodL c ≠ k ∧ regTonePeriodH c ≠ k :=
    ⟨hne _ (by simp only [regTonePeriodL]; omega), hne _ (by simp only [regTonePeriodH]; omega)⟩
  refine ⟨encodedAs_ofWrite k, fun v s => ⟨_, exec_ofWrite_register (hne regEnvShape (by decide)).symm v s,
    storesOnly_writeReg k v s, outputs_store_other s.block (by omega) v, ?_, ?_⟩⟩
  · exact ⟨_, _, exec_tick _, exec_tick s, generatorsKept_tick_writeReg htone (hne _ (by decide))
      ⟨hne _ (by decide), hne _ (by decide)⟩ v s⟩
  · exact ⟨_, exec_ofRead_register k _, congrArg some (Block.store_get_same s.block k v)⟩

/-- Settles O16: both ports are registers above `R[13]`, which nothing but a read uses. -/
theorem portWritesAreStorage : Obligations.PortWritesAreStorage :=
  ⟨writesStorage (k := regPortA) (by decide), writesStorage (k := regPortB) (by decide)⟩

end Sys2Proof.Machine
end

section
/-! PROOF. The general rule of `WR` and its laws (spec/40_register_ops.md R101, R119): what it leaves in each part of
the block, and what a sequence of operations does to one register. -/

namespace Sys2Proof.Machine

/-! ### What `WR` leaves in the block -/

theorem Block.wr_get (b : Block) (i v : Byte) (k : Fin 16) :
    (b.wr i v).regs[k] = if i.toNat = k.val then v else b.regs[k] := by
  cases i using index_cases with
  | oor i h => rw [Block.wr_of_lt b v h, if_neg (by omega)]
  | shape =>
    rw [Block.wr_shape, Block.loadEnvelope_regs, Block.store_get]
    simp only [Fin.ext_iff, eq_comm]
    rfl
  | register j h =>
    rw [Block.wr_register b h, Block.store_get, indexByte_toNat]
    simp only [Fin.ext_iff, eq_comm]

@[simp] theorem Block.wr_tone (b : Block) (i v : Byte) : (b.wr i v).tone = b.tone := by
  cases i using index_cases with
  | oor i h => rw [Block.wr_of_lt b v h]
  | shape => rfl
  | register k h => rw [Block.wr_register b h, Block.store_tone]

@[simp] theorem Block.wr_noise (b : Block) (i v : Byte) : (b.wr i v).noise = b.noise := by
  cases i using index_cases with
  | oor i h => rw [Block.wr_of_lt b v h]
  | shape => rfl
  | register k h => rw [Block.wr_register b h, Block.store_noise]

theorem Block.wr_env (b : Block) (i v : Byte) :
    (b.wr i v).env = if i = 13 then Envelope.load v else b.env := by
  cases i using index_cases with
  | oor i h => rw [Block.wr_of_lt b v h, if_neg (by rintro rfl; exact absurd h (by decide))]
  | shape => rfl
  | register k h => rw [Block.wr_register b h, Block.store_env, if_neg (h ∘ indexByte_eq_shape_iff.mp)]

/-- The second of two stores to one register overrides the first. -/
theorem Block.store_store (b : Block) (k : Fin 16) (v w : Byte) : (b.store k v).store k w = b.store k w := by
  simp [Block.store]

/-- The second of two `WR`s to one index overrides the first, the load of the envelope too (R119 (d)). -/
theorem Block.wr_wr (b : Block) (i v w : Byte) : (b.wr i v).wr i w = b.wr i w := by
  cases i using index_cases with
  | oor i h => simp only [Block.wr_of_lt _ _ h]
  | shape =>
    simp only [Block.wr_shape, ← Block.loadEnvelope_store, Block.store_store]
    rfl
  | register k h => simp only [Block.wr_register _ h, Block.store_store]

/-- Settles O9: the rows are the general rules, and `WR` does to each part of the block what R101 says. -/
theorem execIsTheGeneralSemantics : Obligations.ExecIsTheGeneralSemantics :=
  ⟨exec_toInstr, fun idx val s => ⟨_, exec_ofWrite idx val s, Block.wr_get s.block idx val, Block.wr_tone _ _ _,
    Block.wr_noise _ _ _, Block.wr_env _ _ _, rfl, rfl, rfl⟩⟩

/-! ### One register through a sequence of operations -/

@[simp] theorem State.apply_rd_block (s : State) (i : Byte) : (s.apply (.rd i)).block = s.block := by
  simp only [State.apply]
  split <;> rfl

/-- An operation that neither resets nor writes a register keeps it. -/
theorem State.apply_keeps_register {op : Op} {k : Fin 16} (hreset : op ≠ .reset)
    (hwr : ∀ w, op ≠ .wr (indexByte k) w) (s : State) : (s.apply op).block.regs[k] = s.block.regs[k] := by
  cases op with
  | wr i v =>
    have hne : i.toNat ≠ k.val := fun e => hwr v (by rw [BitVec.eq_of_toNat_eq (e.trans (indexByte_toNat k).symm)])
    rw [State.apply_wr, State.act_block, Block.wr_get, if_neg hne]
  | rd i => rw [State.apply_rd_block]
  | tick => rfl
  | reset => exact absurd rfl hreset

/-- Operations that neither reset nor write a register keep it. -/
theorem foldl_apply_keeps_register {ops : List Op} {k : Fin 16}
    (h : ∀ op ∈ ops, op ≠ .reset ∧ ∀ w, op ≠ .wr (indexByte k) w) (s : State) :
    (ops.foldl State.apply s).block.regs[k] = s.block.regs[k] := by
  induction ops generalizing s with
  | nil => rfl
  | cons op ops ih =>
    obtain ⟨⟨hreset, hwr⟩, hops⟩ := List.forall_mem_cons.mp h
    rw [List.foldl_cons, ih hops, State.apply_keeps_register hreset hwr]

/-- Law (a): a written byte is read back after operations that leave the register alone. -/
theorem write_then_read {k : Fin 16} {ops : List Op}
    (h : ∀ op ∈ ops, op ≠ .reset ∧ ∀ w, op ≠ .wr (indexByte k) w) (v : Byte) (s : State) :
    ExecAllGives (Instr.ofWrite (indexByte k) v :: (ops.map Op.toInstr ++ [Instr.ofRead (indexByte k)])) s
      fun t => t.reply = some v := by
  have hrun := execAll_map_toInstr (.wr (indexByte k) v :: (ops ++ [.rd (indexByte k)])) s
  rw [List.map_cons, List.map_append, List.foldl_cons, List.foldl_append, List.foldl_cons, List.foldl_nil,
    State.apply_rd_register] at hrun
  have hreg : (ops.foldl State.apply (s.apply (.wr (indexByte k) v))).block.regs[k] = v := by
    rw [foldl_apply_keeps_register h, State.apply_wr, State.act_block, Block.wr_get, indexByte_toNat, if_pos rfl]
  exact ⟨_, hrun, congrArg some hreg⟩

/-- Law (b): a write of the held byte keeps the block, unless it writes the shape. -/
theorem write_of_held {k : Fin 16} (hk : k ≠ regEnvShape) {v : Byte} {s : State} (h : s.block.regs[k] = v) :
    ExecGives (Instr.ofWrite (indexByte k) v) s fun t => t.block = s.block :=
  ⟨_, exec_ofWrite_register hk v s, writeReg_block_of_held h⟩

/-- Settles O18: (a) and (b) by the register an index names, (c) and (d) by the commuting and overriding of `WR` on the
block, (e) by its frame. -/
theorem writeLaws : Obligations.WriteLaws := by
  refine ⟨fun i v ops s hi h => ?_, fun i v s hi h13 h => ?_, fun i v j w s hij => ?_, fun i v w s => ?_,
    fun i v s => ⟨_, exec_ofWrite i v s, Block.wr_tone _ _ _, Block.wr_noise _ _ _⟩⟩
  · obtain ⟨k, rfl⟩ := exists_indexByte hi
    exact write_then_read h v s
  · obtain ⟨k, rfl⟩ := exists_indexByte hi
    simp only [indexByte_toNat] at h
    exact write_of_held (h13 ∘ indexByte_eq_shape_iff.mpr) h
  · refine ⟨_, execAll_map_toInstr [.wr i v, .wr j w] s, (execAll_map_toInstr [.wr j w, .wr i v] s).trans ?_⟩
    simp only [List.foldl_cons, List.foldl_nil, State.apply_wr_comm s hij]
  · refine ⟨_, execAll_map_toInstr [.wr i v, .wr i w] s, (execAll_map_toInstr [.wr i w] s).trans ?_⟩
    simp only [List.foldl_cons, List.foldl_nil, State.apply_wr, State.act, Block.wr_wr]

end Sys2Proof.Machine
end

section
/-! PROOF. What a run without a reset keeps (spec/20_memory.md R58, spec/40_register_ops.md R119): each instruction
ticks, resets, writes or leaves the block, so a property of the block and the number of ticks is carried along a run by
its ticks and its writes. -/

namespace Sys2Proof.Machine

/-- Every instruction completes, and it ticks the block, resets it, writes it where its operation is a `WR`, or leaves
it as it is (R70, R200). -/
theorem exec_block_cases (i : Instr) (s : State) : ∃ t, exec i s = .next t ∧
    ((i = .tick ∧ t.block = s.block.tick) ∨ (i = .reset ∧ t.block = Block.reset) ∨
      (∃ idx v, i.toOp = .wr idx v ∧ t.block = s.block.wr idx v) ∨ (i ≠ .tick ∧ t.block = s.block)) := by
  cases i
  case tick => exact ⟨_, exec_tick s, .inl ⟨rfl, rfl⟩⟩
  case reset => exact ⟨_, exec_reset s, .inr (.inl ⟨rfl, rfl⟩)⟩
  case wrR0 v | wrR1 v | wrR2 v | wrR3 v | wrR4 v | wrR5 v | wrR6 v | wrR7 v | wrR8 v | wrR9 v | wrR10 v | wrR11 v
    | wrR12 v | wrR13 v | wrR14 v | wrR15 v => exact ⟨_, rfl, .inr (.inr (.inl ⟨_, v, rfl, rfl⟩))⟩
  all_goals exact ⟨_, rfl, .inr (.inr (.inr ⟨nofun, rfl⟩))⟩

/-- A run goes on from where its first instruction ends (R58). -/
theorem execAllGives_cons {i : Instr} {is : List Instr} {s u : State} {post : State → Prop} (hexec : exec i s = .next u)
    (h : ExecAllGives is u post) : ExecAllGives (i :: is) s post := by
  obtain ⟨t, hrun, hpost⟩ := h
  exact ⟨t, by rw [execAll, hexec]; exact hrun, hpost⟩

/-- A property of the number of ticks and the block that every tick carries to the next number, and every write of the
run keeps, holds at the end of a run without a reset. -/
theorem execAllGives_of_tick_of_wr {P : Nat → Block → Prop} {is : List Instr} (htick : ∀ n b, P n b → P (n + 1) b.tick)
    (hreset : ∀ i ∈ is, i ≠ .reset)
    (hwr : ∀ i ∈ is, ∀ idx v, i.toOp = .wr idx v → ∀ n b, P n b → P n (b.wr idx v))
    {n : Nat} {s : State} (h : P n s.block) : ExecAllGives is s fun t => P (n + is.count .tick) t.block := by
  induction is generalizing n s with
  | nil => exact ⟨s, rfl, h⟩
  | cons i is ih =>
    obtain ⟨hreset_i, hreset_is⟩ := List.forall_mem_cons.mp hreset
    obtain ⟨hwr_i, hwr_is⟩ := List.forall_mem_cons.mp hwr
    obtain ⟨u, hexec, hcases⟩ := exec_block_cases i s
    refine execAllGives_cons hexec ?_
    obtain ⟨rfl, hu⟩ | ⟨rfl, hu⟩ | ⟨idx, v, hop, hu⟩ | ⟨hne, hu⟩ := hcases
    · rw [List.count_cons_self, ← Nat.succ_add_eq_add_succ]
      exact ih hreset_is hwr_is (hu ▸ htick n _ h)
    · exact absurd rfl hreset_i
    · have hne : i ≠ .tick := by rintro rfl; exact Op.noConfusion hop
      rw [List.count_cons_of_ne hne]
      exact ih hreset_is hwr_is (hu ▸ hwr_i idx v hop n _ h)
    · rw [List.count_cons_of_ne hne]
      exact ih hreset_is hwr_is (hu ▸ h)

/-! ### A counter that returns to 0 at p, as a remainder and a quotient -/

/-- Where the next count has reached p, the quotient advances and the remainder returns to 0. -/
theorem succ_mod_div_of_le {n p : Nat} (hp : 0 < p) (h : p ≤ n % p + 1) :
    (n + 1) % p = 0 ∧ (n + 1) / p = n / p + 1 := by
  have hlt := Nat.mod_lt n hp
  have hn : n + 1 = p * (n / p + 1) := by
    have hdiv := Nat.div_add_mod n p
    rw [Nat.mul_succ]
    omega
  rw [hn, Nat.mul_mod_right, Nat.mul_div_cancel_left _ hp]
  exact ⟨rfl, rfl⟩

/-- Below p the remainder counts on and the quotient stays. -/
theorem succ_mod_div_of_lt {n p : Nat} (h : n % p + 1 < p) :
    (n + 1) % p = n % p + 1 ∧ (n + 1) / p = n / p := by
  have hn : n + 1 = p * (n / p) + (n % p + 1) := by
    have hdiv := Nat.div_add_mod n p
    omega
  constructor
  · rw [hn, Nat.mul_add_mod, Nat.mod_eq_of_lt h]
  · rw [hn, Nat.mul_add_div (by omega), Nat.div_eq_of_lt h, Nat.add_zero]

end Sys2Proof.Machine
end

section
/-! PROOF. The tone generators (spec/41_tone.md R131 to R137): one step, and the square wave under a constant period. -/

namespace Sys2Proof.Machine

/-! ### One step -/

/-- An expiry in numbers: the count returns to 0 and the phase advances modulo 32 (R132). -/
theorem Tone.step_toNat_of_ge (tp : BitVec 12) (t : Tone) (h : effTonePeriod tp ≤ t.cnt.toNat + 1) :
    (t.step tp).cnt.toNat = 0 ∧ (t.step tp).phase.toNat = (t.phase.toNat + 1) % 32 := by
  rw [Tone.step_of_ge tp t h]
  exact ⟨rfl, by rw [BitVec.toNat_ofNat, Nat.mod_mod]⟩

/-- After a step the count is below the period in force (R38, R132). -/
theorem Tone.step_cnt_lt (tp : BitVec 12) (t : Tone) : (t.step tp).cnt.toNat < effTonePeriod tp := by
  rcases Nat.lt_or_ge (t.cnt.toNat + 1) (effTonePeriod tp) with h | h
  · rw [(Tone.step_of_lt tp t h).1]; exact h
  · rw [(Tone.step_toNat_of_ge tp t h).1]; exact (effTonePeriod_bounds tp).1

/-- Settles O23: each generator steps under its own period, and the count stays below the period in force. -/
theorem toneStepAtTick : Obligations.ToneStepAtTick := by
  refine fun s => ⟨_, exec_tick s, fun c => ?_⟩
  rw [State.act_block, Block.tick_tone]
  have hcnt := Tone.step_cnt_lt (s.block.tonePeriod c) s.block.tone[c]
  have hbound := (effTonePeriod_bounds (s.block.tonePeriod c)).2
  exact ⟨Tone.step_toNat_of_ge _ _, Tone.step_of_lt _ _, by omega⟩

/-- A `WR` to neither half of a tone period keeps it (R135). -/
theorem Block.tonePeriod_wr_other (b : Block) {c : Fin 3} {idx : Byte} (v : Byte)
    (hl : idx.toNat ≠ (regTonePeriodL c).val) (hh : idx.toNat ≠ (regTonePeriodH c).val) :
    (b.wr idx v).tonePeriod c = b.tonePeriod c := by
  rw [Block.tonePeriod, Block.wr_get, Block.wr_get, if_neg hl, if_neg hh, Block.tonePeriod]

/-! ### The tone bit -/

/-- The tone bit is the parity of the phase (R133, R134). -/
theorem Block.toneBit_eq_oddBit (b : Block) (c : Fin 3) : b.toneBit c = oddBit (b.tone[c]).phase.toNat := by
  have hduty : ∀ p : BitVec 5, duty50.getLsbD p.toNat = oddBit p.toNat := by decide
  exact hduty _

theorem oddBit_mod_32 (n : Nat) : oddBit (n % 32) = oddBit n := by
  rw [oddBit, Nat.mod_mod_of_dvd n (by decide), oddBit]

theorem oddBit_add (m n : Nat) : oddBit (m + n) = (oddBit m ^^ oddBit n) := by
  simp only [oddBit, Nat.add_mod m n 2]
  rcases Nat.mod_two_eq_zero_or_one m with hm | hm <;> rcases Nat.mod_two_eq_zero_or_one n with hn | hn <;>
    rw [hm, hn] <;> rfl

/-! ### The wave under a constant period -/

/-- Tone generator c after n ticks under the constant effective period p from count 0 and the given phase (R137). -/
structure ToneWave (c : Fin 3) (p phase n : Nat) (b : Block) : Prop where
  period : effTonePeriod (b.tonePeriod c) = p
  cnt : (b.tone[c]).cnt.toNat = n % p
  phase : (b.tone[c]).phase.toNat = (phase + n / p) % 32

section
variable {c : Fin 3} {p phase n : Nat} {b : Block}

/-- From count 0 the wave is at its start. -/
theorem toneWave_zero (h : (b.tone[c]).cnt = 0) :
    ToneWave c (effTonePeriod (b.tonePeriod c)) (b.tone[c]).phase.toNat 0 b where
  period := rfl
  cnt := by rw [h, Nat.zero_mod]; rfl
  phase := by rw [Nat.zero_div, Nat.add_zero, Nat.mod_eq_of_lt (b.tone[c]).phase.isLt]

/-- A tick takes the wave one tick on (R132). -/
theorem ToneWave.tick (h : ToneWave c p phase n b) : ToneWave c p phase (n + 1) b.tick := by
  obtain ⟨hper, hcnt, hphase⟩ := h
  have hpos : 0 < p := hper ▸ (effTonePeriod_bounds _).1
  rcases Nat.lt_or_ge (n % p + 1) p with hlt | hge
  · obtain ⟨hmod, hdiv⟩ := succ_mod_div_of_lt hlt
    obtain ⟨hcnt', hphase'⟩ := Tone.step_of_lt (b.tonePeriod c) b.tone[c] (by rwa [hper, hcnt])
    refine ⟨hper, ?_, ?_⟩
    · rw [Block.tick_tone, hcnt', hcnt, hmod]
    · rw [Block.tick_tone, hphase', hphase, hdiv]
  · obtain ⟨hmod, hdiv⟩ := succ_mod_div_of_le hpos hge
    obtain ⟨hcnt', hphase'⟩ := Tone.step_toNat_of_ge (b.tonePeriod c) b.tone[c] (by rwa [hper, hcnt])
    refine ⟨hper, ?_, ?_⟩
    · rw [Block.tick_tone, hcnt', hmod]
    · rw [Block.tick_tone, hphase', hphase, hdiv, Nat.mod_add_mod, Nat.add_assoc]

/-- A write to neither half of the period leaves the wave where it is (R135). -/
theorem ToneWave.wr {idx : Byte} (hl : idx.toNat ≠ (regTonePeriodL c).val) (hh : idx.toNat ≠ (regTonePeriodH c).val)
    (v : Byte) (h : ToneWave c p phase n b) : ToneWave c p phase n (b.wr idx v) := by
  obtain ⟨hper, hcnt, hphase⟩ := h
  exact ⟨by rw [Block.tonePeriod_wr_other b v hl hh, hper], by rw [Block.wr_tone, hcnt], by rw [Block.wr_tone, hphase]⟩

/-- The tone bit is the bit at the start, inverted once for every p ticks (R137). -/
theorem ToneWave.toneBit (h : ToneWave c p phase n b) : b.toneBit c = (oddBit phase ^^ oddBit (n / p)) := by
  rw [Block.toneBit_eq_oddBit, h.phase, oddBit_mod_32, oddBit_add]

end

/-- Settles O29: the ticks of the run carry the wave on and its writes leave it, and the phase's parity is the bit. -/
theorem toneIsASquareWave : Obligations.ToneIsASquareWave := by
  intro is s c hcnt hlow hhigh
  obtain ⟨t, hrun, hwave⟩ := execAllGives_of_tick_of_wr (fun _ _ => ToneWave.tick) (fun i hi => (hlow i hi).1)
    (fun i hi idx v hop _ _ => ToneWave.wr ((hlow i hi).2 idx v hop) ((hhigh i hi).2 idx v hop) v)
    (toneWave_zero hcnt)
  rw [Nat.zero_add] at hwave
  refine ⟨t, hrun, hwave.toneBit.trans ?_⟩
  rw [Block.toneBit_eq_oddBit, effTonePeriod]

end Sys2Proof.Machine
end

section
/-! PROOF. One step of the envelope generator, and the load of a shape (spec/42_envelope.md R141, R142, R146, R147). -/

namespace Sys2Proof.Machine

/-! ### One envelope step, in numbers (R147) -/

section
variable (e : Envelope)

theorem Envelope.levelStep_of_holding (h : e.holding = true) : e.levelStep = e := by
  rw [Envelope.levelStep, if_pos h]

theorem Envelope.levelStep_rising (h : e.holding = false) (hup : e.up = true) (hlevel : e.level.toNat < 15) :
    e.levelStep.level.toNat = e.level.toNat + 1 ∧ e.levelStep.up = true ∧ e.levelStep.holding = false := by
  have hlt : e.level < topLevel := hlevel
  have hstep : e.levelStep = { e with level := e.level + 1 } := by simp [Envelope.levelStep, h, hup, hlt]
  rw [hstep]
  exact ⟨BitVec.toNat_add_of_lt (Nat.succ_lt_succ hlevel), hup, h⟩

theorem Envelope.levelStep_falling (h : e.holding = false) (hup : e.up = false) (hlevel : 0 < e.level.toNat) :
    e.levelStep.level.toNat = e.level.toNat - 1 ∧ e.levelStep.up = false ∧ e.levelStep.holding = false := by
  have hlt : 0 < e.level := hlevel
  have hstep : e.levelStep = { e with level := e.level - 1 } := by
    simp only [Envelope.levelStep, h, hup, hlt]
    rfl
  rw [hstep]
  exact ⟨BitVec.toNat_sub_of_le hlevel, hup, h⟩

end

section
variable (e : Envelope) (hholding : e.holding = false) (hlevel : e.level.toNat = if e.up then 15 else 0)
include hholding hlevel

/-- Saturation is where the next step would pass 15 or 0. -/
theorem Envelope.levelStep_of_end : e.levelStep = e.saturate := by
  obtain ⟨hh, -⟩ | ⟨-, hup, hlt, -⟩ | ⟨-, hup, hlt, -⟩ | ⟨-, -, hstep⟩ := e.levelStep_cases
  · exact absurd (hholding.symm.trans hh) Bool.false_ne_true
  · rw [hup] at hlevel
    exact absurd hlevel (Nat.ne_of_lt hlt)
  · rw [hup] at hlevel
    exact absurd hlevel (Nat.ne_of_gt hlt)
  · exact hstep

theorem Envelope.levelStep_clamp (hhold : e.hold = true) :
    e.levelStep.holding = true ∧ e.levelStep.up = e.up ∧
      e.levelStep.level.toNat = if e.alt then 15 - e.level.toNat else e.level.toNat := by
  rw [e.levelStep_of_end hholding hlevel, Envelope.saturate, if_pos hhold]
  refine ⟨rfl, rfl, ?_⟩
  split
  · exact BitVec.toNat_sub_of_le (Nat.le_of_lt_succ e.level.isLt)
  · rfl

theorem Envelope.levelStep_bounce (hhold : e.hold = false) (halt : e.alt = true) :
    e.levelStep.holding = false ∧ e.levelStep.up = !e.up ∧ e.levelStep.level = e.level := by
  rw [e.levelStep_of_end hholding hlevel, Envelope.saturate, if_neg (by simp [hhold]), if_pos halt]
  exact ⟨hholding, rfl, rfl⟩

theorem Envelope.levelStep_restart (hhold : e.hold = false) (halt : e.alt = false) :
    e.levelStep.holding = false ∧ e.levelStep.up = e.up ∧ e.levelStep.level.toNat = if e.up then 0 else 15 := by
  rw [e.levelStep_of_end hholding hlevel, Envelope.saturate, if_neg (by simp [hhold]), if_neg (by simp [halt])]
  exact ⟨hholding, rfl, apply_ite BitVec.toNat _ _ _⟩

end

/-! ### The envelope generator at a tick -/

@[simp] theorem Envelope.step_hold (ep : BitVec 16) (e : Envelope) : (e.step ep).hold = e.hold := by
  simp only [Envelope.step]
  split
  · rw [Envelope.levelStep_hold]
  · rfl

@[simp] theorem Envelope.step_alt (ep : BitVec 16) (e : Envelope) : (e.step ep).alt = e.alt := by
  simp only [Envelope.step]
  split
  · rw [Envelope.levelStep_alt]
  · rfl

/-- After a step the count is below the period in force (R40, R146). -/
theorem Envelope.step_cnt_lt (ep : BitVec 16) (e : Envelope) : (e.step ep).cnt.toNat < effEnvPeriod ep := by
  rcases Nat.lt_or_ge (e.cnt.toNat + 1) (effEnvPeriod ep) with h | h
  · rw [(Envelope.step_of_lt ep e h).2]; exact h
  · rw [Envelope.step_of_ge ep e h, Envelope.levelStep_cnt]
    exact Nat.lt_of_lt_of_le Nat.zero_lt_two (effEnvPeriod_bounds ep).1

/-- Settles O25: the count is compared with the period in force; at expiry the level is held, steps, or saturates. -/
theorem envelopeStepAtTick : Obligations.EnvelopeStepAtTick := by
  refine fun s => ⟨_, exec_tick s, ?_⟩
  have heff : effEnvPeriod s.block.envPeriod =
      2 * max 1 ((s.block.regs[12]).toNat * 256 + (s.block.regs[11]).toNat) :=
    congrArg (2 * max 1 ·) s.block.envPeriod_toNat
  have hlt := Envelope.step_cnt_lt s.block.envPeriod s.block.env
  have hbound := (effEnvPeriod_bounds s.block.envPeriod).2
  simp only [State.act_block, Block.tick_env, ← heff]
  generalize s.block.envPeriod = ep at *
  refine ⟨Envelope.step_hold _ _, Envelope.step_alt _ _, by omega, fun h => ?_, fun h => ?_⟩
  · obtain ⟨hstep, hcnt⟩ := Envelope.step_of_lt _ _ h
    refine ⟨hcnt, ?_⟩
    rw [hstep]
    exact ⟨rfl, rfl, rfl⟩
  · rw [Envelope.step_of_ge _ _ h]
    let e : Envelope := { s.block.env with cnt := 0 }
    refine ⟨congrArg BitVec.toNat e.levelStep_cnt, fun hh => ?_, e.levelStep_rising, e.levelStep_falling,
      fun hh hl => ⟨e.levelStep_clamp hh hl, e.levelStep_bounce hh hl, e.levelStep_restart hh hl⟩⟩
    rw [e.levelStep_of_holding hh]
    exact ⟨rfl, rfl, hh⟩

end Sys2Proof.Machine
end

section
/-! PROOF. The shape write (spec/30_encoding.md R79; spec/42_envelope.md R141, R142). -/

namespace Sys2Proof.Machine

/-- A bit of the shape is a bit of the byte (R35, R79). -/
theorem getLsbD_shapeOf (v : Byte) {i : Nat} (hi : i < 4) : (shapeOf v).getLsbD i = oddBit (v.toNat / 2 ^ i) := by
  rw [shapeOf, BitVec.getLsbD_extractLsb', decide_eq_true hi, Bool.true_and, Nat.zero_add, getLsbD_eq_oddBit]

theorem normAtt_eq_oddBit (v : Byte) : normAtt v = oddBit (v.toNat / 4) := getLsbD_shapeOf v (by decide)

theorem shapeCont_eq_oddBit (v : Byte) : shapeCont v = oddBit (v.toNat / 8) := getLsbD_shapeOf v (by decide)

/-- Without continue a shape holds and alternates as it attacks (R141). -/
theorem norm_of_not_cont {v : Byte} (h : v.toNat / 8 % 2 = 0) :
    normHold v = true ∧ normAlt v = oddBit (v.toNat / 4) := by
  have hcont : shapeCont v = false := by rw [shapeCont_eq_oddBit, oddBit, h]; rfl
  rw [normHold, normAlt, hcont]
  exact ⟨rfl, getLsbD_shapeOf v (by decide)⟩

/-- With continue the hold and alternate bits are those of the byte (R141). -/
theorem norm_of_cont {v : Byte} (h : v.toNat / 8 % 2 = 1) :
    normHold v = oddBit v.toNat ∧ normAlt v = oddBit (v.toNat / 2) := by
  have hcont : shapeCont v = true := by rw [shapeCont_eq_oddBit, oddBit, h]; rfl
  rw [normHold, normAlt, hcont]
  exact ⟨(getLsbD_shapeOf v (by decide)).trans (by rw [pow_zero, Nat.div_one]), getLsbD_shapeOf v (by decide)⟩

/-- A load starts the level at the end its direction leaves (R142). -/
theorem Envelope.load_level (v : Byte) : (Envelope.load v).level.toNat = if normAtt v then 0 else 15 :=
  apply_ite BitVec.toNat _ _ _

/-- The shape write stores the byte and loads the envelope (R115). -/
theorem exec_wrR13 (v : Byte) (s : State) : exec (.wrR13 v) s = .next (s.writeShape v) := rfl

/-- Settles O15: the write is the store and the load, and `RESET` ends in the load of 0. -/
theorem shapeWriteLoadsEnvelope : Obligations.ShapeWriteLoadsEnvelope := by
  refine ⟨encodedAs_ofWrite regEnvShape, fun v s => ⟨_, exec_wrR13 v s, Block.store_get_same _ _ v,
    fun j hj => Block.store_get_other _ _ j v hj, rfl, rfl, ⟨rfl, rfl, rfl⟩, norm_of_not_cont, norm_of_cont,
    normAtt_eq_oddBit v, ?_, rfl, rfl⟩, fun s s' => ⟨_, _, exec_reset s, exec_wrR13 0 s',
      (congrArg Block.env s.block.resetAll_eq_reset).symm⟩⟩
  refine (Envelope.load_level v).trans ?_
  simp only [normAtt_eq_oddBit, oddBit, beq_iff_eq]

end Sys2Proof.Machine
end

section
/-! PROOF. The level sequences of the shapes (spec/42_envelope.md R149, R152, R153): the ramps and what follows each,
and the envelope steps from a load under a constant period. -/

namespace Sys2Proof.Machine

/-! ### Ramps -/

/-- The envelope of the shape v has made j steps of a ramp upwards or downwards. -/
structure Envelope.OnRamp (v : Byte) (upwards : Bool) (j : Nat) (e : Envelope) : Prop where
  hold : e.hold = normHold v
  alt : e.alt = normAlt v
  up : e.up = upwards
  holding : e.holding = false
  level : e.level.toNat = if upwards then j else 15 - j

/-- The envelope has stopped at the end of its ramp, or at the other end with alternate (R149 (a)). -/
structure Envelope.StoppedAtEnd (v : Byte) (e : Envelope) : Prop where
  holding : e.holding = true
  level : e.level.toNat = if normAtt v ^^ normAlt v then 15 else 0

theorem Envelope.onRamp_load (v : Byte) : (Envelope.load v).OnRamp v (normAtt v) 0 :=
  ⟨rfl, rfl, rfl, rfl, Envelope.load_level v⟩

section
variable {v : Byte} {upwards : Bool} {j : Nat} {e : Envelope}

/-- Before the end of the ramp a step goes one on (R147). -/
theorem Envelope.OnRamp.next (h : e.OnRamp v upwards j) (hj : j < 15) : e.levelStep.OnRamp v upwards (j + 1) := by
  obtain ⟨hhold, halt, rfl, hholding, hlevel⟩ := h
  rw [← e.levelStep_hold] at hhold
  rw [← e.levelStep_alt] at halt
  cases hup : e.up with
  | true =>
    rw [hup, if_pos rfl] at hlevel
    obtain ⟨hlevel', hup', hholding'⟩ := e.levelStep_rising hholding hup (by omega)
    exact ⟨hhold, halt, hup', hholding', by rw [hlevel', hlevel, if_pos rfl]⟩
  | false =>
    rw [hup, if_neg Bool.false_ne_true] at hlevel
    obtain ⟨hlevel', hup', hholding'⟩ := e.levelStep_falling hholding hup (by omega)
    exact ⟨hhold, halt, hup', hholding', by rw [hlevel', hlevel, if_neg Bool.false_ne_true]; omega⟩

/-- A shape that does not hold goes on to a ramp: the opposite one with alternate, else the same again (R149 (b),
(c)). -/
theorem Envelope.OnRamp.again (h : e.OnRamp v upwards 15) (hv : normHold v = false) :
    e.levelStep.OnRamp v (upwards ^^ normAlt v) 0 := by
  obtain ⟨hhold, halt, rfl, hholding, hlevel⟩ := h
  have hhold' := hhold.trans hv
  rw [← e.levelStep_hold] at hhold
  cases hA : normAlt v with
  | true =>
    obtain ⟨hholding', hup', hlevel'⟩ := e.levelStep_bounce hholding hlevel hhold' (halt.trans hA)
    refine ⟨hhold, e.levelStep_alt.trans halt, by rw [hup', Bool.xor_true], hholding', ?_⟩
    rw [hlevel', hlevel]
    cases e.up <;> rfl
  | false =>
    obtain ⟨hholding', hup', hlevel'⟩ := e.levelStep_restart hholding hlevel hhold' (halt.trans hA)
    exact ⟨hhold, e.levelStep_alt.trans halt, by rw [hup', Bool.xor_false], hholding',
      by rw [hlevel', Bool.xor_false]⟩

/-- A shape that holds stops where its one ramp ends (R149 (a)). -/
theorem Envelope.OnRamp.stops (h : e.OnRamp v (normAtt v) 15) (hv : normHold v = true) :
    e.levelStep.StoppedAtEnd v := by
  obtain ⟨hhold, halt, hup, hholding, hlevel⟩ := h
  rw [← hup] at hlevel
  obtain ⟨hholding', -, hlevel'⟩ := e.levelStep_clamp hholding hlevel (hhold.trans hv)
  refine ⟨hholding', ?_⟩
  rw [hlevel', hlevel, halt, hup]
  cases normAtt v <;> cases normAlt v <;> rfl

end

/-! ### The envelope after k steps from a load -/

/-- The direction after k steps: the attack bit, inverted at the end of each ramp with alternate. -/
def rampDirection (v : Byte) (k : Nat) : Bool := normAtt v ^^ (normAlt v && oddBit (k / 16))

theorem rampDirection_of_lt (v : Byte) {k : Nat} (hk : k < 16) : rampDirection v k = normAtt v := by
  simp [rampDirection, oddBit, Nat.div_eq_of_lt hk]

/-- In its first ramp, and for ever where its shape does not hold, the envelope is on a ramp (R152). -/
theorem onRamp_levelStep_iterate {v : Byte} {k : Nat} (h : normHold v = false ∨ k < 16) :
    (Envelope.levelStep^[k] (Envelope.load v)).OnRamp v (rampDirection v k) (k % 16) := by
  induction k with
  | zero =>
    rw [rampDirection_of_lt v (by decide)]
    exact Envelope.onRamp_load v
  | succ k ih =>
    have hramp := ih (h.imp_right Nat.lt_of_succ_lt)
    rw [Function.iterate_succ_apply']
    rcases Nat.lt_or_ge (k % 16 + 1) 16 with hlt | hge
    · obtain ⟨hmod, hdiv⟩ := succ_mod_div_of_lt hlt
      rw [rampDirection, hmod, hdiv]
      exact hramp.next (Nat.lt_of_succ_lt_succ hlt)
    · obtain ⟨hmod, hdiv⟩ := succ_mod_div_of_le (by decide) hge
      have hend : k % 16 = 15 := by omega
      have hdir : rampDirection v (k + 1) = (rampDirection v k ^^ normAlt v) := by
        have hodd : oddBit 1 = true := rfl
        rw [rampDirection, hdiv, oddBit_add, hodd, rampDirection]
        cases normAlt v <;> simp
      rw [hmod, hdir]
      exact Envelope.OnRamp.again (hend ▸ hramp) (h.resolve_right (by omega))

/-- A shape that holds has stopped from step 16 on (R152). -/
theorem stoppedAtEnd_levelStep_iterate {v : Byte} (hv : normHold v = true) {k : Nat} (hk : 16 ≤ k) :
    (Envelope.levelStep^[k] (Envelope.load v)).StoppedAtEnd v := by
  induction k, hk using Nat.le_induction with
  | base =>
    have hramp := onRamp_levelStep_iterate (v := v) (k := 15) (.inr (by decide))
    rw [rampDirection_of_lt v (by decide)] at hramp
    rw [Function.iterate_succ_apply']
    exact hramp.stops hv
  | succ k _ ih =>
    rw [Function.iterate_succ_apply', Envelope.levelStep_of_holding _ ih.holding]
    exact ih

/-! ### The table of R152 -/

theorem runsForEver_eq_not_normHold (v : Byte) : runsForEver (v.toNat % 16) = !normHold v := by decide +revert

/-- In its first ramp every row of the table rises or falls by the attack bit. -/
theorem trajectory_first_ramp (v : Byte) {k : Nat} (hk : k < 16) :
    trajectory (v.toNat % 16) k = if normAtt v then k else 15 - k := by
  have hrow : v.toNat % 16 < 16 := Nat.mod_lt _ (by decide)
  have hatt : normAtt v = oddBit (v.toNat % 16 / 4) := by
    rw [normAtt_eq_oddBit, oddBit, oddBit]
    congr 1
    omega
  have hk16 : k % 16 = k := Nat.mod_eq_of_lt hk
  have hk32 : k % 32 = k := Nat.mod_eq_of_lt (by omega)
  rw [hatt]
  generalize v.toNat % 16 = row at hrow
  interval_cases row <;> simp [trajectory, oddBit, hk, hk16, hk32]

/-- The rows that run for ever repeat the one ramp, or alternate it with the opposite one. -/
theorem trajectory_of_not_normHold {v : Byte} (hv : normHold v = false) (k : Nat) :
    trajectory (v.toNat % 16) k = if rampDirection v k then k % 16 else 15 - k % 16 := by
  have hrow : (v.toNat % 16 = 8 ∧ normAtt v = false ∧ normAlt v = false) ∨
      (v.toNat % 16 = 10 ∧ normAtt v = false ∧ normAlt v = true) ∨
      (v.toNat % 16 = 12 ∧ normAtt v = true ∧ normAlt v = false) ∨
      (v.toNat % 16 = 14 ∧ normAtt v = true ∧ normAlt v = true) := by decide +revert
  have hodd : oddBit (k / 16) = !decide (k % 32 < 16) := by
    rw [← decide_not]
    exact decide_eq_decide.mpr (by omega)
  obtain ⟨hrow, hatt, halt⟩ | ⟨hrow, hatt, halt⟩ | ⟨hrow, hatt, halt⟩ | ⟨hrow, hatt, halt⟩ := hrow <;>
    rw [hrow, rampDirection, hatt, halt, hodd]
  all_goals
    by_cases hk : k % 32 < 16 <;> simp [trajectory, hk] <;> omega

/-- The rows that stop stay where they are from step 16 on. -/
theorem trajectory_of_normHold {v : Byte} (hv : normHold v = true) {k : Nat} (hk : 16 ≤ k) :
    trajectory (v.toNat % 16) k = if normAtt v ^^ normAlt v then 15 else 0 := by
  have hstay : trajectory (v.toNat % 16) k = trajectory (v.toNat % 16) 16 := by
    have hrow : v.toNat % 16 < 16 := Nat.mod_lt _ (by decide)
    have hstops : runsForEver (v.toNat % 16) = false := by rw [runsForEver_eq_not_normHold, hv]; rfl
    generalize v.toNat % 16 = row at hrow hstops
    interval_cases row <;> simp_all [trajectory, runsForEver, Nat.not_lt.mpr hk]
  have hlast : ∀ v : Byte, normHold v = true →
      trajectory (v.toNat % 16) 16 = if normAtt v ^^ normAlt v then 15 else 0 := by decide
  rw [hstay, hlast v hv]

/-- The level and the holding flag after k envelope steps from a load are those of R152. -/
theorem levelStep_iterate_load (v : Byte) (k : Nat) :
    (Envelope.levelStep^[k] (Envelope.load v)).level.toNat = trajectory (v.toNat % 16) k ∧
      (Envelope.levelStep^[k] (Envelope.load v)).holding = (!runsForEver (v.toNat % 16) && decide (16 ≤ k)) := by
  rw [runsForEver_eq_not_normHold, Bool.not_not]
  cases hv : normHold v with
  | false =>
    have hramp := onRamp_levelStep_iterate (k := k) (.inl hv)
    exact ⟨by rw [hramp.level, trajectory_of_not_normHold hv], hramp.holding⟩
  | true =>
    rcases Nat.lt_or_ge k 16 with hk | hk
    · have hramp := onRamp_levelStep_iterate (v := v) (.inr hk)
      refine ⟨?_, by rw [hramp.holding, decide_eq_false (Nat.not_le.mpr hk), Bool.and_false]⟩
      rw [hramp.level, rampDirection_of_lt v hk, Nat.mod_eq_of_lt hk, trajectory_first_ramp v hk]
    · have hstopped := stoppedAtEnd_levelStep_iterate hv hk
      exact ⟨by rw [hstopped.level, trajectory_of_normHold hv hk],
        by rw [hstopped.holding, decide_eq_true hk, Bool.true_and]⟩

/-! ### The steps in time -/

/-- The envelope generator after n ticks under the constant effective period p, from count 0 and the envelope e
(R153). -/
structure EnvelopeRun (e : Envelope) (p n : Nat) (b : Block) : Prop where
  period : effEnvPeriod b.envPeriod = p
  cnt : b.env.cnt.toNat = n % p
  env : { b.env with cnt := 0 } = Envelope.levelStep^[n / p] e

section
variable {e : Envelope} {p n : Nat} {b : Block}

/-- From count 0 the run is at its start. -/
theorem envelopeRun_zero (h : b.env.cnt = 0) : EnvelopeRun b.env (effEnvPeriod b.envPeriod) 0 b where
  period := rfl
  cnt := by rw [h, Nat.zero_mod]; rfl
  env := by rw [Nat.zero_div, Function.iterate_zero_apply, ← h]

/-- A tick takes the run one tick on (R146). -/
theorem EnvelopeRun.tick (h : EnvelopeRun e p n b) : EnvelopeRun e p (n + 1) b.tick := by
  obtain ⟨hper, hcnt, henv⟩ := h
  have hpos : 0 < p := hper ▸ Nat.lt_of_succ_lt (effEnvPeriod_bounds _).1
  rcases Nat.lt_or_ge (n % p + 1) p with hlt | hge
  · obtain ⟨hmod, hdiv⟩ := succ_mod_div_of_lt hlt
    obtain ⟨hstep, hcnt'⟩ := Envelope.step_of_lt b.envPeriod b.env (by rwa [hper, hcnt])
    refine ⟨hper, ?_, ?_⟩
    · rw [Block.tick_env, hcnt', hcnt, hmod]
    · rw [Block.tick_env, hstep, hdiv]
      exact henv
  · obtain ⟨hmod, hdiv⟩ := succ_mod_div_of_le hpos hge
    have hstep := Envelope.step_of_ge b.envPeriod b.env (by rwa [hper, hcnt])
    have hcnt' : b.tick.env.cnt = 0 := by rw [Block.tick_env, hstep, Envelope.levelStep_cnt]
    refine ⟨hper, by rw [hcnt', hmod]; rfl, ?_⟩
    rw [hdiv, Function.iterate_succ_apply', ← henv, ← hstep, ← hcnt']
    rfl

/-- A `WR` to neither half of the envelope period keeps it (R148). -/
theorem Block.envPeriod_wr_other (b : Block) {idx : Byte} (v : Byte) (hl : idx.toNat ≠ regEnvPeriodL.val)
    (hh : idx.toNat ≠ regEnvPeriodH.val) : (b.wr idx v).envPeriod = b.envPeriod := by
  rw [Block.envPeriod, Block.wr_get, Block.wr_get, if_neg hl, if_neg hh, Block.envPeriod]

/-- A `WR` to any register but that of the shape keeps the envelope (R119 (e)). -/
theorem Block.wr_env_other (b : Block) {idx : Byte} (v : Byte) (h : idx.toNat ≠ regEnvShape.val) :
    (b.wr idx v).env = b.env := by
  rw [Block.wr_env, if_neg (by rintro rfl; exact h rfl)]

/-- A write of neither the period nor the shape leaves the run where it is. -/
theorem EnvelopeRun.wr {idx : Byte} (hl : idx.toNat ≠ regEnvPeriodL.val) (hh : idx.toNat ≠ regEnvPeriodH.val)
    (hs : idx.toNat ≠ regEnvShape.val) (v : Byte) (h : EnvelopeRun e p n b) : EnvelopeRun e p n (b.wr idx v) := by
  obtain ⟨hper, hcnt, henv⟩ := h
  have hkept := b.wr_env_other v hs
  exact ⟨by rw [b.envPeriod_wr_other v hl hh, hper], by rw [hkept, hcnt], by rw [hkept, henv]⟩

end

/-- Settles O30: the ticks of the run make an envelope step in every effective period and its writes leave it, and after
k steps from a load the envelope is where R152 has it. -/
theorem envelopeTrajectoryFromLoad : Obligations.EnvelopeTrajectoryFromLoad := by
  intro v is s hlow hhigh hshape
  have hstart : EnvelopeRun (Envelope.load v) (effEnvPeriod s.block.envPeriod) 0 (s.writeShape v).block := by
    have hper : (s.writeShape v).block.envPeriod = s.block.envPeriod :=
      s.block.envPeriod_store_other v (by decide) (by decide)
    rw [← hper]
    exact envelopeRun_zero (b := (s.writeShape v).block) rfl
  obtain ⟨t, hrun, hend⟩ := execAllGives_of_tick_of_wr (fun _ _ => EnvelopeRun.tick) (fun i hi => (hlow i hi).1)
    (fun i hi idx w hop _ _ => EnvelopeRun.wr ((hlow i hi).2 idx w hop) ((hhigh i hi).2 idx w hop)
      ((hshape i hi).2 idx w hop) w) hstart
  refine execAllGives_cons (exec_wrR13 v s) ⟨t, hrun, ?_⟩
  obtain ⟨hlevel, hholding⟩ := levelStep_iterate_load v (is.count .tick / effEnvPeriod s.block.envPeriod)
  rw [Nat.zero_add] at hend
  rw [← hend.env] at hlevel hholding
  exact ⟨hlevel, hholding⟩

end Sys2Proof.Machine
end

section
/-! PROOF. Every instruction has the effect of an abstract operation (spec/30_encoding.md R70, R118, R122), so a run is
the fold of operations that do not depend on the state. -/

namespace Sys2Proof

/-- The operation that an instruction has the effect of. An out-of-range row addresses no register whatever its index
(R118, R122), so its effect is that of the index 0xFF. -/
def Instr.effect : Instr → Op
  | .wrOor _ v => .wr 0xFF v
  | .rdOor _ => .rd 0xFF
  | i => i.toOp

theorem Instr.effect_eq_reset {i : Instr} (h : i.effect = .reset) : i = .reset := by
  cases i
  case reset => rfl
  all_goals exact Op.noConfusion h

theorem Instr.effect_eq_wr_shape {i : Instr} {v : Byte} (h : i.effect = .wr 13 v) : i = .wrR13 v := by
  cases i <;> simp_all [Instr.effect, Instr.toOp]

end Sys2Proof

namespace Sys2Proof.Machine

theorem exec_eq_apply_effect (i : Instr) (s : State) : exec i s = .next (s.apply i.effect) := by
  cases i
  case reset => exact exec_reset s
  all_goals rfl

theorem execAll_eq_foldl_effect (is : List Instr) (s : State) :
    execAll is s = .next ((is.map Instr.effect).foldl State.apply s) := by
  induction is generalizing s with
  | nil => rfl
  | cons i is ih => simp only [execAll, exec_eq_apply_effect, ih, List.map_cons, List.foldl_cons]

/-- An operation does to the block what its general rule says; a read leaves it (R101, R120, R186, R190). -/
theorem State.apply_block (s : State) (op : Op) : (s.apply op).block = s.block.apply op := by
  cases op with
  | wr i v => rfl
  | rd i => exact s.apply_rd_block i
  | tick => rfl
  | reset => rfl

end Sys2Proof.Machine
end

section
/-! PROOF. A held envelope (spec/42_envelope.md R150): it withstands every operation but a shape write and a reset. -/

namespace Sys2Proof.Machine

/-- A tick moves at most the counter of a held envelope (R146, R150). -/
theorem Envelope.step_of_holding (ep : BitVec 16) {e : Envelope} (h : e.holding = true) :
    ∃ c, e.step ep = { e with cnt := c } := by
  rcases Nat.lt_or_ge (e.cnt.toNat + 1) (effEnvPeriod ep) with hlt | hge
  · exact ⟨_, (Envelope.step_of_lt ep e hlt).1⟩
  · exact ⟨0, (Envelope.step_of_ge ep e hge).trans (Envelope.levelStep_of_holding _ h)⟩

/-- The block's envelope is e but for its counter. -/
def Block.EnvelopeIs (b : Block) (e : Envelope) : Prop := ∃ c, b.env = { e with cnt := c }

/-- An operation that neither resets nor writes the shape leaves a held envelope what it is (R150). -/
theorem Block.EnvelopeIs.apply {b : Block} {e : Envelope} {op : Op} (h : b.EnvelopeIs e) (hholding : e.holding = true)
    (hreset : op ≠ .reset) (hshape : ∀ v, op ≠ .wr 13 v) : (b.apply op).EnvelopeIs e := by
  cases op with
  | wr i v =>
    obtain ⟨c, henv⟩ := h
    have hi : i ≠ 13 := by rintro rfl; exact hshape v rfl
    exact ⟨c, (b.wr_env i v).trans ((if_neg hi).trans henv)⟩
  | rd i => exact h
  | tick =>
    obtain ⟨c, henv⟩ := h
    have hheld : b.env.holding = true := by rw [henv]; exact hholding
    obtain ⟨c', hstep⟩ := Envelope.step_of_holding b.envPeriod hheld
    exact ⟨c', hstep.trans (by rw [henv])⟩
  | reset => exact absurd rfl hreset

/-- Settles O31: no instruction of the run has the effect of a reset or a shape write, and each of these two loads the
envelope. -/
theorem holdingIsFinal : Obligations.HoldingIsFinal := by
  refine ⟨fun is s hholding his => ⟨_, execAll_eq_foldl_effect is s, ?_⟩, ?_⟩
  · obtain ⟨c, henv⟩ : ((is.map Instr.effect).foldl State.apply s).block.EnvelopeIs s.block.env := by
      refine List.foldlRecOn (motive := fun t : State => t.block.EnvelopeIs s.block.env) _ _ ⟨_, rfl⟩
        fun t ht op hop => ?_
      obtain ⟨i, hi, rfl⟩ := List.mem_map.mp hop
      obtain ⟨hreset, hshape⟩ := his i hi
      rw [State.apply_block]
      exact ht.apply hholding (hreset ∘ Instr.effect_eq_reset) fun v => hshape v ∘ Instr.effect_eq_wr_shape
    rw [henv]
    exact ⟨rfl, rfl, rfl, rfl, hholding⟩
  · rintro i s (rfl | ⟨v, rfl⟩)
    · exact ⟨_, exec_reset s, rfl⟩
    · exact ⟨_, exec_wrR13 v s, rfl⟩

end Sys2Proof.Machine
end

section
/-! PROOF. Shapes with equal normal forms (spec/42_envelope.md R154): they load the same envelope, and blocks that
differ in the byte of the shape register alone go on doing so. -/

namespace Sys2Proof.Machine

/-- The load reads its byte through the normal form alone (R142). -/
theorem Envelope.load_congr {v w : Byte} (h : normShape v = normShape w) : Envelope.load v = Envelope.load w := by
  have hatt : ∀ u : Byte, normAtt u = (normShape u).getLsbD 2 := by decide
  have halt : ∀ u : Byte, normAlt u = (normShape u).getLsbD 1 := by decide
  have hhold : ∀ u : Byte, normHold u = (normShape u).getLsbD 0 := by decide
  simp only [Envelope.load, hatt, halt, hhold, h]

/-- The blocks differ at most in the byte of the shape register. -/
structure AgreeOffShape (b b' : Block) : Prop where
  regs : ∀ j, j ≠ regEnvShape → b'.regs[j] = b.regs[j]
  tone : b'.tone = b.tone
  noise : b'.noise = b.noise
  env : b'.env = b.env

section
variable {b b' : Block} (h : AgreeOffShape b b')
include h

/-! ### The fields of blocks that agree -/

theorem AgreeOffShape.tonePeriod (c : Fin 3) : b'.tonePeriod c = b.tonePeriod c := by
  have hlow : regTonePeriodL c ≠ regEnvShape := by decide +revert
  have hhigh : regTonePeriodH c ≠ regEnvShape := by decide +revert
  rw [Block.tonePeriod, h.regs _ hlow, h.regs _ hhigh, Block.tonePeriod]

theorem AgreeOffShape.noisePeriod : b'.noisePeriod = b.noisePeriod := by
  rw [Block.noisePeriod, h.regs _ (by decide), Block.noisePeriod]

theorem AgreeOffShape.envPeriod : b'.envPeriod = b.envPeriod := by
  rw [Block.envPeriod, h.regs _ (by decide), h.regs _ (by decide), Block.envPeriod]

theorem AgreeOffShape.outputs (cfg : Config) : b'.outputs cfg = b.outputs cfg := by
  refine Block.outputs_congr cfg (fun c => ?_) (fun c => ?_) h.tone h.noise fun c => ?_
  · rw [Block.toneOff, h.regs _ (by decide), Block.toneOff]
  · rw [Block.noiseOff, h.regs _ (by decide), Block.noiseOff]
  · have hvolume : regVolume c ≠ regEnvShape := by decide +revert
    rw [Block.level, Block.envSelect, Block.fixedLevel, h.regs _ hvolume, h.env]
    rfl

/-! ### Operations on blocks that agree -/

theorem AgreeOffShape.wr (i v : Byte) : AgreeOffShape (b.wr i v) (b'.wr i v) where
  regs j hj := by rw [Block.wr_get, Block.wr_get, h.regs j hj]
  tone := by rw [Block.wr_tone, Block.wr_tone, h.tone]
  noise := by rw [Block.wr_noise, Block.wr_noise, h.noise]
  env := by rw [Block.wr_env, Block.wr_env, h.env]

theorem AgreeOffShape.tick : AgreeOffShape b.tick b'.tick where
  regs := h.regs
  tone := Block.tick_tone_congr h.tone h.tonePeriod
  noise := by rw [Block.tick_noise, Block.tick_noise, h.noise, h.noisePeriod]
  env := by rw [Block.tick_env, Block.tick_env, h.env, h.envPeriod]

theorem AgreeOffShape.apply (op : Op) : AgreeOffShape (b.apply op) (b'.apply op) := by
  cases op with
  | wr i v => exact h.wr i v
  | rd i => exact h
  | tick => exact h.tick
  | reset => exact ⟨fun _ _ => rfl, rfl, rfl, rfl⟩

end

theorem agreeOffShape_writeShape {v w : Byte} (h : normShape v = normShape w) (s : State) :
    AgreeOffShape (s.writeShape v).block (s.writeShape w).block where
  regs j hj := (Block.store_get_other _ _ j w hj).trans (Block.store_get_other _ _ j v hj).symm
  tone := rfl
  noise := rfl
  env := (Envelope.load_congr h).symm

/-- Settles O32: the two writes leave blocks that agree, and the one list of operations keeps them so. -/
theorem equalNormalShapesAreEquivalent : Obligations.EqualNormalShapesAreEquivalent := by
  refine ⟨by decide, by decide, fun v w is s hvw => ?_⟩
  let final (u : Byte) : State := (is.map Instr.effect).foldl State.apply (s.writeShape u)
  have hrun (u : Byte) : execAll (.wrR13 u :: is) s = .next (final u) := execAll_eq_foldl_effect is (s.writeShape u)
  have hagree : AgreeOffShape (final v).block (final w).block :=
    List.foldl_rel (r := fun t u : State => AgreeOffShape t.block u.block) (agreeOffShape_writeShape hvw s)
      fun op _ t u htu => by rw [State.apply_block, State.apply_block]; exact htu.apply op
  exact ⟨final v, final w, hrun v, hrun w, ⟨hagree.tone, hagree.noise, hagree.env⟩, hagree.regs,
    fun cfg => (hagree.outputs cfg).symm⟩

end Sys2Proof.Machine
end

section
/-! PROOF. One step of the noise generator and the update of its shift register (spec/43_noise.md R162, R163, R166): the
update as a number and bit by bit, the recurrence of the output, and why the register is never zero. -/

namespace Sys2Proof.Machine

/-! ### One step -/

/-- Where the count reaches the period it returns to 0 (R162). -/
theorem Noise.step_toNat_of_ge (np : BitVec 5) (g : Noise) (h : effNoisePeriod np ≤ g.cnt.toNat + 1) :
    (g.step np).cnt.toNat = 0 ∧ (g.step np).lfsr = lfsrNext g.lfsr := by
  rw [Noise.step_of_ge np g h]
  exact ⟨rfl, rfl⟩

/-- After a step the count is below the period in force (R162). -/
theorem Noise.step_cnt_lt (np : BitVec 5) (g : Noise) : (g.step np).cnt.toNat < effNoisePeriod np := by
  rcases Nat.lt_or_ge (g.cnt.toNat + 1) (effNoisePeriod np) with h | h
  · rw [(Noise.step_of_lt np g h).1]; exact h
  · rw [(Noise.step_toNat_of_ge np g h).1]; exact Nat.lt_of_succ_lt (effNoisePeriod_bounds np).1

theorem Noise.step_lfsr_cases (np : BitVec 5) (g : Noise) :
    (g.step np).lfsr = g.lfsr ∨ (g.step np).lfsr = lfsrNext g.lfsr := by
  rcases Nat.lt_or_ge (g.cnt.toNat + 1) (effNoisePeriod np) with h | h
  · exact .inl (Noise.step_of_lt np g h).2
  · exact .inr (Noise.step_toNat_of_ge np g h).2

/-- Settles O24: the generator steps under the period of register 6, and the count stays below the period in force. -/
theorem noiseStepAtTick : Obligations.NoiseStepAtTick := by
  refine fun s => ⟨_, exec_tick s, ?_⟩
  have hper : 2 * max 1 ((s.block.regs[6]).toNat % 32) = effNoisePeriod s.block.noisePeriod :=
    congrArg (2 * max 1 ·) s.block.noisePeriod_toNat.symm
  have hcnt := Noise.step_cnt_lt s.block.noisePeriod s.block.noise
  have hbound := (effNoisePeriod_bounds s.block.noisePeriod).2
  simp only [State.act_block, Block.tick_noise, hper]
  exact ⟨Noise.step_toNat_of_ge _ _, Noise.step_of_lt _ _, by omega⟩

/-! ### The update (R163) -/

section
variable (x : BitVec 17)

/-- Below bit 16 the update shifts the register right. -/
theorem getLsbD_lfsrNext_of_lt {i : Nat} (hi : i < 16) : (lfsrNext x).getLsbD i = x.getLsbD (i + 1) := by
  refine (BitVec.getLsbD_append (x := BitVec.ofBool _) (y := x.extractLsb' 1 16)).trans ?_
  simp [hi, Nat.add_comm]

/-- At bit 16 the feedback enters. -/
theorem getLsbD_lfsrNext_top : (lfsrNext x).getLsbD 16 = (x.getLsbD 0 ^^ x.getLsbD 3) :=
  (BitVec.getLsbD_append (x := BitVec.ofBool _) (y := x.extractLsb' 1 16)).trans (BitVec.getLsbD_ofBool _ 0)

theorem toNat_lfsrNext : (lfsrNext x).toNat = (x.toNat + x.toNat / 8) % 2 * 65536 + x.toNat / 2 := by
  have hshift : (x.extractLsb' 1 16).toNat = x.toNat / 2 := by
    rw [BitVec.extractLsb'_toNat, Nat.shiftRight_eq_div_pow]
    exact Nat.mod_eq_of_lt (by omega)
  have hfeedback : (x.getLsbD lfsrTapA ^^ x.getLsbD lfsrTapB).toNat = (x.toNat + x.toNat / 8) % 2 := by
    simp only [BitVec.getLsbD, Nat.testBit_eq_decide_div_mod_eq, lfsrTapA, lfsrTapB]
    rcases Nat.mod_two_eq_zero_or_one x.toNat with h0 | h0 <;>
      rcases Nat.mod_two_eq_zero_or_one (x.toNat / 8) with h3 | h3 <;> simp [Nat.add_mod, h0, h3]
  refine (BitVec.toNat_append (BitVec.ofBool _) (x.extractLsb' 1 16)).trans ?_
  rw [← Nat.shiftLeft_add_eq_or_of_lt (x.extractLsb' 1 16).isLt, Nat.shiftLeft_eq, BitVec.toNat_ofBool, hfeedback,
    hshift]

/-- The bit that was dropped is recovered from the feedback (R166). -/
theorem getLsbD_zero_eq_lfsrNext : x.getLsbD 0 = ((lfsrNext x).getLsbD 16 ^^ (lfsrNext x).getLsbD 2) := by
  rw [getLsbD_lfsrNext_top, getLsbD_lfsrNext_of_lt x (by decide), Bool.xor_assoc, Bool.xor_self, Bool.xor_false]

/-- n updates bring bit i + n to bit i, as long as it comes from the register (R163). -/
theorem getLsbD_lfsrNext_iterate {i n : Nat} (h : i + n < 17) : (lfsrNext^[n] x).getLsbD i = x.getLsbD (i + n) := by
  induction n generalizing i with
  | zero => rfl
  | succ n ih =>
    rw [Function.iterate_succ_apply', getLsbD_lfsrNext_of_lt _ (by omega), ih (by omega), Nat.add_right_comm,
      Nat.add_assoc]

/-- The feedback enters at the top and reaches the output 16 updates later. -/
theorem getLsbD_lfsrNext_iterate_17 :
    (lfsrNext^[17] x).getLsbD 0 = (x.getLsbD 0 ^^ (lfsrNext^[3] x).getLsbD 0) := by
  rw [Function.iterate_succ_apply, getLsbD_lfsrNext_iterate _ (by decide), getLsbD_lfsrNext_iterate _ (by decide)]
  exact getLsbD_lfsrNext_top x

end

/-- Settles O34: the update as a number, and the recurrence from the register as it stands at t. -/
theorem shiftRegisterUpdate : Obligations.ShiftRegisterUpdate := by
  refine ⟨toNat_lfsrNext, fun x t => ?_⟩
  rw [Nat.add_comm t, Nat.add_comm t, Function.iterate_add_apply, Function.iterate_add_apply lfsrNext 3]
  exact getLsbD_lfsrNext_iterate_17 _

/-! ### The register is never zero (R166) -/

theorem lfsrNext_injective : Function.Injective lfsrNext := by
  refine fun x y h => BitVec.eq_of_getLsbD_eq fun i hi => ?_
  cases i with
  | zero => rw [getLsbD_zero_eq_lfsrNext x, h, ← getLsbD_zero_eq_lfsrNext]
  | succ i => rw [← getLsbD_lfsrNext_of_lt x (by omega), h, getLsbD_lfsrNext_of_lt y (by omega)]

theorem lfsrNext_eq_zero_iff (x : BitVec 17) : lfsrNext x = 0 ↔ x = 0 := by
  have hzero : lfsrNext 0 = 0 := by decide
  exact lfsrNext_injective.eq_iff' hzero

/-- No operation brings a shift register that is not 0 to 0: a tick updates or keeps it and a reset loads the seed. -/
theorem Block.apply_lfsr_ne_zero {b : Block} (h : b.noise.lfsr ≠ 0) (op : Op) : (b.apply op).noise.lfsr ≠ 0 := by
  cases op with
  | wr i v => exact (b.wr_noise i v).symm ▸ h
  | rd i => exact h
  | tick =>
    rcases Noise.step_lfsr_cases b.noisePeriod b.noise with hkeep | hnext
    · exact hkeep.symm ▸ h
    · exact hnext.symm ▸ (lfsrNext_eq_zero_iff _).not.mpr h
  | reset =>
    have hseed : noiseSeed ≠ 0 := by decide
    exact hseed

/-- Settles O35: an injective update of finitely many values is a bijection, and no operation of a run reaches 0. -/
theorem shiftRegisterIsNeverZero : Obligations.ShiftRegisterIsNeverZero := by
  refine ⟨Finite.injective_iff_bijective.mp lfsrNext_injective, fun x => ⟨?_, getLsbD_zero_eq_lfsrNext x⟩,
    lfsrNext_eq_zero_iff, fun is s h => ⟨_, execAll_eq_foldl_effect is s, ?_⟩⟩
  · rw [toNat_lfsrNext]
    omega
  · refine List.foldlRecOn (motive := fun t : State => t.block.noise.lfsr ≠ 0) _ _ h fun t ht op _ => ?_
    rw [State.apply_block]
    exact Block.apply_lfsr_ne_zero ht op

end Sys2Proof.Machine
end

section
/-! PROOF. The period of the noise sequence (spec/43_noise.md R167). The update is linear for exclusive-or, so it is a
17 x 17 bit matrix; squared 17 times that matrix is itself again, so 2^17 updates are one update and 2^17 - 1 are none.
As 2^17 - 1 = 131071 is prime and only 0 is fixed, every nonzero value has that period and no smaller one. -/

namespace Sys2Proof.Machine

/-! ### Functions that are linear for exclusive-or, and their matrices -/

def XorLinear (f : BitVec 17 → BitVec 17) : Prop := ∀ x y, f (x ^^^ y) = f x ^^^ f y

/-- The columns of the matrix of f: its values at the single bits. -/
def columns (f : BitVec 17 → BitVec 17) : List (BitVec 17) := (List.range 17).map fun i => f (BitVec.twoPow 17 i)

/-- The low k bits of x times the matrix: the sum of the columns that they select. -/
def mulColumns (cols : List (BitVec 17)) (x : BitVec 17) : Nat → BitVec 17
  | 0 => 0
  | k + 1 => if x.getLsbD k then mulColumns cols x k ^^^ cols.getD k 0 else mulColumns cols x k

/-- The matrix times itself. -/
def squareColumns (cols : List (BitVec 17)) : List (BitVec 17) := cols.map fun x => mulColumns cols x 17

/-- A set bit k is what the low k + 1 bits have beyond the low k bits. -/
theorem setWidth_setWidth_succ_eq_xor_twoPow {x : BitVec 17} {k : Nat} (hbit : x.getLsbD k = true) :
    (x.setWidth (k + 1)).setWidth 17 = (x.setWidth k).setWidth 17 ^^^ BitVec.twoPow 17 k := by
  refine BitVec.eq_of_getLsbD_eq fun i hi => ?_
  simp only [BitVec.getLsbD_xor, BitVec.getLsbD_setWidth, BitVec.getLsbD_twoPow]
  rcases Nat.lt_trichotomy i k with hlt | rfl | hgt
  · simp [hlt.ne', hlt, Nat.lt_succ_of_lt hlt]
  · simp [hi, hbit]
  · simp [hgt.ne, Nat.lt_asymm hgt, show ¬ i < k + 1 by omega]

section
variable {f : BitVec 17 → BitVec 17} (hf : XorLinear f)
include hf

theorem XorLinear.map_zero : f 0 = 0 := by
  have h := hf 0 0
  rwa [BitVec.xor_self, BitVec.xor_self] at h

theorem XorLinear.iterate (n : Nat) : XorLinear f^[n] := by
  induction n with
  | zero => exact fun _ _ => rfl
  | succ n ih => exact fun x y => by simp only [Function.iterate_succ_apply', ih x y, hf _ _]

/-- The low k bits of x times the matrix of f are f of the value that these bits make. -/
theorem XorLinear.mulColumns_columns_low (x : BitVec 17) {k : Nat} (hk : k ≤ 17) :
    mulColumns (columns f) x k = f ((x.setWidth k).setWidth 17) := by
  induction k with
  | zero =>
    have hnone : (x.setWidth 0).setWidth 17 = 0 := by rw [BitVec.eq_nil (x.setWidth 0)]; rfl
    rw [hnone, hf.map_zero, mulColumns]
  | succ k ih =>
    have hlt : k < 17 := hk
    have hcol : (columns f).getD k 0 = f (BitVec.twoPow 17 k) := by simp [columns, hlt]
    rw [mulColumns, ih hlt.le, hcol]
    split
    next hbit => rw [← hf, setWidth_setWidth_succ_eq_xor_twoPow hbit]
    next hbit => rw [BitVec.setWidth_setWidth_succ_eq_setWidth_setWidth_of_getLsbD_false (by simpa using hbit)]

/-- A linear function is the product by its matrix. -/
theorem XorLinear.mulColumns_columns (x : BitVec 17) : mulColumns (columns f) x 17 = f x := by
  rw [hf.mulColumns_columns_low x (by decide), BitVec.setWidth_eq, BitVec.setWidth_eq]

/-- The matrix of f, squared k times, is that of 2^k applications of f. -/
theorem XorLinear.squareColumns_iterate (k : Nat) : squareColumns^[k] (columns f) = columns f^[2 ^ k] := by
  induction k with
  | zero => rfl
  | succ k ih =>
    rw [Function.iterate_succ_apply', ih, Nat.pow_succ, Nat.mul_two, Function.iterate_add]
    exact (List.map_map ..).trans (List.map_congr_left fun i _ => (hf.iterate _).mulColumns_columns _)

end

/-! ### The period -/

theorem lfsrNext_xorLinear : XorLinear lfsrNext := by
  refine fun x y => BitVec.eq_of_getLsbD_eq fun i hi => ?_
  rcases Nat.lt_succ_iff_lt_or_eq.mp hi with hlt | rfl
  · simp only [BitVec.getLsbD_xor, getLsbD_lfsrNext_of_lt _ hlt]
  · simp only [BitVec.getLsbD_xor, getLsbD_lfsrNext_top, Bool.xor_assoc, Bool.xor_left_comm]

/-- The one computation of the proof, 17 products of the bit matrix with itself (R167). -/
theorem squareColumns_iterate_lfsrNext : squareColumns^[17] (columns lfsrNext) = columns lfsrNext := by
  decide +kernel

theorem lfsrNext_iterate_two_pow (x : BitVec 17) : lfsrNext^[2 ^ 17] x = lfsrNext x := by
  rw [← (lfsrNext_xorLinear.iterate (2 ^ 17)).mulColumns_columns, ← lfsrNext_xorLinear.squareColumns_iterate,
    squareColumns_iterate_lfsrNext, lfsrNext_xorLinear.mulColumns_columns]

theorem isPeriodicPt_lfsrNext (x : BitVec 17) : Function.IsPeriodicPt lfsrNext 131071 x := by
  have hsucc : 2 ^ 17 = 131071 + 1 := by norm_num
  have h := lfsrNext_iterate_two_pow x
  rw [hsucc, Function.iterate_succ_apply'] at h
  exact lfsrNext_injective h

/-- The update fixes only 0. -/
theorem not_isFixedPt_lfsrNext {x : BitVec 17} (hx : x ≠ 0) : ¬ Function.IsFixedPt lfsrNext x := by
  intro h
  have hnext := congrArg BitVec.toNat h
  rw [toNat_lfsrNext] at hnext
  rcases Nat.mod_two_eq_zero_or_one (x.toNat + x.toNat / 8) with hfeedback | hfeedback
  · exact hx (BitVec.eq_of_toNat_eq (show x.toNat = 0 by omega))
  · have hones : x.toNat = 131071 := by omega
    rw [hones] at hfeedback
    exact absurd hfeedback (by decide)

/-- 131071 is prime, so the period of a value that is not fixed is no proper part of it. -/
theorem minimalPeriod_lfsrNext {x : BitVec 17} (hx : x ≠ 0) : Function.minimalPeriod lfsrNext x = 131071 :=
  have : Fact (Nat.Prime 131071) := ⟨by norm_num⟩
  Function.minimalPeriod_eq_prime (isPeriodicPt_lfsrNext x) (not_isFixedPt_lfsrNext hx)

theorem lfsrNext_iterate_eq_self_iff {x : BitVec 17} (hx : x ≠ 0) (n : Nat) :
    lfsrNext^[n] x = x ↔ 131071 ∣ n := by
  rw [← minimalPeriod_lfsrNext hx]
  exact Function.isPeriodicPt_iff_minimalPeriod_dvd

theorem lfsrNext_iterate_ne_zero {x : BitVec 17} (hx : x ≠ 0) (n : Nat) : lfsrNext^[n] x ≠ 0 := by
  induction n with
  | zero => exact hx
  | succ n ih =>
    rw [Function.iterate_succ_apply']
    exact (lfsrNext_eq_zero_iff _).not.mpr ih

/-- The 131071 values from x on differ, and there are no more that are not 0. -/
theorem exists_lfsrNext_iterate_eq {x y : BitVec 17} (hx : x ≠ 0) (hy : y ≠ 0) : ∃ n, lfsrNext^[n] x = y := by
  have hinj : Set.InjOn (lfsrNext^[·] x) (Finset.range 131071) := by
    rw [Finset.coe_range, ← minimalPeriod_lfsrNext hx]
    exact Function.iterate_injOn_Iio_minimalPeriod
  have hsub : (Finset.range 131071).image (lfsrNext^[·] x) ⊆ Finset.univ.erase 0 := by
    refine Finset.image_subset_iff.mpr fun n _ => Finset.mem_erase.mpr ⟨?_, Finset.mem_univ _⟩
    exact lfsrNext_iterate_ne_zero hx n
  have hcard : (Finset.univ.erase (0 : BitVec 17)).card ≤ ((Finset.range 131071).image (lfsrNext^[·] x)).card := by
    rw [Finset.card_image_of_injOn hinj, Finset.card_range, Finset.card_erase_of_mem (Finset.mem_univ _),
      Finset.card_univ, ← FinEnum.card_eq_fintypeCard, FinEnum.card_bitVec]
    norm_num
  have hmem : y ∈ (Finset.range 131071).image (lfsrNext^[·] x) := by
    rw [Finset.eq_of_subset_of_card_le hsub hcard]
    exact Finset.mem_erase.mpr ⟨hy, Finset.mem_univ y⟩
  obtain ⟨n, -, hn⟩ := Finset.mem_image.mp hmem
  exact ⟨n, hn⟩

/-- Seventeen output bits in a row are the register. -/
theorem eq_of_output_eq {x y : BitVec 17} (h : ∀ k, (lfsrNext^[k] x).getLsbD 0 = (lfsrNext^[k] y).getLsbD 0) :
    x = y := by
  refine BitVec.eq_of_getLsbD_eq fun i hi => ?_
  have hi' : 0 + i < 17 := by omega
  have hk := h i
  rwa [getLsbD_lfsrNext_iterate x hi', getLsbD_lfsrNext_iterate y hi', Nat.zero_add] at hk

theorem output_periodic_iff {x : BitVec 17} (hx : x ≠ 0) (n : Nat) :
    (∀ k, (lfsrNext^[k + n] x).getLsbD 0 = (lfsrNext^[k] x).getLsbD 0) ↔ 131071 ∣ n := by
  simp only [← lfsrNext_iterate_eq_self_iff hx, Function.iterate_add_apply]
  exact ⟨eq_of_output_eq, fun h k => by rw [h]⟩

/-! ### The period in time -/

/-- The noise generator under the constant effective period p, n ticks after a shift that loaded x (R162). -/
structure NoiseRun (x : BitVec 17) (p n : Nat) (b : Block) : Prop where
  period : effNoisePeriod b.noisePeriod = p
  cnt : b.noise.cnt.toNat = n % p
  lfsr : b.noise.lfsr = lfsrNext^[n / p] x

section
variable {x : BitVec 17} {p n : Nat} {b : Block}

/-- A count below the period is the number of ticks since the last shift. -/
theorem noiseRun_of_cnt_lt (h : b.noise.cnt.toNat < effNoisePeriod b.noisePeriod) :
    NoiseRun b.noise.lfsr (effNoisePeriod b.noisePeriod) b.noise.cnt.toNat b where
  period := rfl
  cnt := (Nat.mod_eq_of_lt h).symm
  lfsr := by rw [Nat.div_eq_of_lt h, Function.iterate_zero_apply]

/-- A tick takes the run one tick on (R162). -/
theorem NoiseRun.tick (h : NoiseRun x p n b) : NoiseRun x p (n + 1) b.tick := by
  obtain ⟨hper, hcnt, hlfsr⟩ := h
  have hpos : 0 < p := hper ▸ Nat.lt_of_succ_lt (effNoisePeriod_bounds _).1
  rcases Nat.lt_or_ge (n % p + 1) p with hlt | hge
  · obtain ⟨hmod, hdiv⟩ := succ_mod_div_of_lt hlt
    obtain ⟨hcnt', hlfsr'⟩ := Noise.step_of_lt b.noisePeriod b.noise (by rwa [hper, hcnt])
    refine ⟨hper, ?_, ?_⟩
    · rw [Block.tick_noise, hcnt', hcnt, hmod]
    · rw [Block.tick_noise, hlfsr', hlfsr, hdiv]
  · obtain ⟨hmod, hdiv⟩ := succ_mod_div_of_le hpos hge
    obtain ⟨hcnt', hlfsr'⟩ := Noise.step_toNat_of_ge b.noisePeriod b.noise (by rwa [hper, hcnt])
    refine ⟨hper, ?_, ?_⟩
    · rw [Block.tick_noise, hcnt', hmod]
    · rw [Block.tick_noise, hlfsr', hlfsr, hdiv, Function.iterate_succ_apply']

/-- A write of another register than the period leaves the run where it is (R164). -/
theorem NoiseRun.wr {idx : Byte} (hidx : idx.toNat ≠ regNoisePeriod.val) (v : Byte) (h : NoiseRun x p n b) :
    NoiseRun x p n (b.wr idx v) := by
  obtain ⟨hper, hcnt, hlfsr⟩ := h
  have hkept : (b.wr idx v).noisePeriod = b.noisePeriod := by
    rw [Block.noisePeriod, Block.wr_get, if_neg hidx, Block.noisePeriod]
  exact ⟨by rw [hkept, hper], by rw [Block.wr_noise, hcnt], by rw [Block.wr_noise, hlfsr]⟩

end

/-- After 131071 effective periods of ticks the noise generator is back where it was. -/
theorem noiseRun_returns {is : List Instr} {s : State}
    (hcnt : s.block.noise.cnt.toNat < effNoisePeriod s.block.noisePeriod) (his : LeavesRegister 6 is)
    (hticks : is.count .tick = 131071 * effNoisePeriod s.block.noisePeriod) :
    ExecAllGives is s fun t => t.block.noise = s.block.noise := by
  obtain ⟨t, hrun, -, hcnt', hlfsr'⟩ := execAllGives_of_tick_of_wr (fun _ _ => NoiseRun.tick)
    (fun i hi => (his i hi).1) (fun i hi idx v hop _ _ => NoiseRun.wr ((his i hi).2 idx v hop) v)
    (noiseRun_of_cnt_lt hcnt)
  have hpos : 0 < effNoisePeriod s.block.noisePeriod := Nat.lt_of_succ_lt (effNoisePeriod_bounds _).1
  rw [hticks, Nat.add_mul_mod_self_right, Nat.mod_eq_of_lt hcnt] at hcnt'
  rw [hticks, Nat.add_mul_div_right _ _ hpos, Nat.div_eq_of_lt hcnt, Nat.zero_add] at hlfsr'
  exact ⟨t, hrun, congrArg₂ Noise.mk (BitVec.eq_of_toNat_eq hcnt') (hlfsr'.trans (isPeriodicPt_lfsrNext _).eq)⟩

/-- Settles O36: the period of every nonzero value is the prime 131071, in the register as in its output bit. -/
theorem noisePeriodIsExact : Obligations.NoisePeriodIsExact :=
  ⟨fun _ n hx => lfsrNext_iterate_eq_self_iff hx n, fun _ _ => exists_lfsrNext_iterate_eq,
    fun _ n hx => output_periodic_iff hx n, fun _ _ => noiseRun_returns⟩

end Sys2Proof.Machine
end

section
/-! PROOF. The output codes as formulas of the stored bytes and the generator bits, their laws, and the writes that
can change them (spec/44_mixer_dac.md R171 to R174, R179, R180). -/

namespace Sys2Proof.Machine

/-! ### The formulas (R171 to R174) -/

section
variable (cfg : Config) (b : Block) (c : Fin 3)

theorem Block.toneEnabled_eq_bne : b.toneEnabled cfg c = (b.toneOff c != cfg.mixerActiveLow) := by
  rw [Block.toneEnabled]
  cases cfg.mixerActiveLow <;> simp

theorem Block.noiseEnabled_eq_bne : b.noiseEnabled cfg c = (b.noiseOff c != cfg.mixerActiveLow) := by
  rw [Block.noiseEnabled]
  cases cfg.mixerActiveLow <;> simp

theorem Block.toneOff_eq_oddBit : b.toneOff c = oddBit ((b.regs[regMixer]).toNat / 2 ^ c.val) :=
  getLsbD_eq_oddBit _ _

theorem Block.noiseOff_eq_oddBit : b.noiseOff c = oddBit ((b.regs[regMixer]).toNat / 2 ^ (3 + c.val)) :=
  getLsbD_eq_oddBit _ _

theorem Block.envSelect_eq_oddBit : b.envSelect c = oddBit ((b.regs[regVolume c]).toNat / 16) :=
  getLsbD_eq_oddBit _ 4

/-- The noise bit is the parity of the shift register (R165). -/
theorem Block.noiseBit_eq_oddBit : b.noiseBit = oddBit b.noise.lfsr.toNat := by
  rw [Block.noiseBit, lfsrOutputBit, BitVec.getLsbD, Nat.testBit_zero]
  rfl

/-- A disabled input contributes a constant 1 to the AND (R172). -/
theorem Block.gate_eq_and :
    b.gate cfg c = ((!b.toneEnabled cfg c || b.toneBit c) && (!b.noiseEnabled cfg c || b.noiseBit)) := by
  rw [Block.gate]
  cases b.toneEnabled cfg c <;> cases b.noiseEnabled cfg c <;> rfl

theorem Block.level_toNat : (b.level c).toNat =
    if (b.regs[regVolume c]).toNat / 16 % 2 = 1 then b.env.level.toNat else (b.regs[regVolume c]).toNat % 16 := by
  simp only [Block.level, Block.envSelect_eq_oddBit, oddBit, beq_iff_eq, apply_ite BitVec.toNat,
    Block.fixedLevel_toNat]

theorem Block.outputs_getElem : (b.outputs cfg)[c] = b.out cfg c := by
  match c with
  | 0 | 1 | 2 => rfl

theorem Block.out_of_gate (hgate : b.gate cfg c = true) : b.out cfg c = cfg.voltab (b.level c).toFin := if_pos hgate

/-- The gate closes the output or lets the table entry of the level through (R174). -/
theorem Block.out_cases : b.out cfg c = 0 ∨ b.out cfg c = cfg.voltab (b.level c).toFin := by
  cases hgate : b.gate cfg c with
  | false => exact .inl (by rw [Block.out, hgate]; rfl)
  | true => exact .inr (b.out_of_gate cfg c hgate)

end

/-- Settles O37: the fields are bits of the stored bytes, and a generator's bit is the parity of its phase or its
shift register. -/
theorem outputFormula : Obligations.OutputFormula := by
  intro cfg b c
  refine ⟨?_, ?_, ?_, b.level_toNat c, rfl, b.outputs_getElem cfg c⟩
  · rw [Block.toneEnabled_eq_bne, Block.toneOff_eq_oddBit]
    rfl
  · rw [Block.noiseEnabled_eq_bne, Block.noiseOff_eq_oddBit]
    rfl
  · rw [Block.gate_eq_and, Block.toneBit_eq_oddBit, Block.noiseBit_eq_oddBit]

/-! ### The laws (R180) -/

/-- Numbers with equal remainders modulo 2 are odd together. -/
theorem oddBit_congr {m n : Nat} (h : m % 2 = n % 2) : oddBit m = oddBit n := by rw [oddBit, h, oddBit]

section
variable {b b' : Block} {c : Fin 3}

/-- A level depends on bits 4:0 of its volume register and the envelope level alone (R173). -/
theorem Block.level_congr (hvol : (b.regs[regVolume c]).toNat % 32 = (b'.regs[regVolume c]).toNat % 32)
    (henv : b.env.level = b'.env.level) : b.level c = b'.level c := by
  have hselect : (b.regs[regVolume c]).toNat / 16 % 2 = (b'.regs[regVolume c]).toNat / 16 % 2 := by omega
  have hfixed : (b.regs[regVolume c]).toNat % 16 = (b'.regs[regVolume c]).toNat % 16 := by omega
  exact BitVec.eq_of_toNat_eq (by simp only [Block.level_toNat, hselect, hfixed, henv])

/-- An output depends on its channel's mixer bits, tone bit and level and on the noise bit alone (R171 to R174). -/
theorem Block.out_congr (cfg : Config) (hmixT : b.toneOff c = b'.toneOff c) (hmixN : b.noiseOff c = b'.noiseOff c)
    (htone : b.toneBit c = b'.toneBit c) (hnoise : b.noiseBit = b'.noiseBit) (hlevel : b.level c = b'.level c) :
    b.out cfg c = b'.out cfg c := by
  simp only [Block.out, Block.gate_eq_and, Block.toneEnabled_eq_bne, Block.noiseEnabled_eq_bne, hmixT, hmixN, htone,
    hnoise, hlevel]

/-- The mixer byte 0x3F opens every gate under the default polarity (R172). -/
theorem Block.gate_of_mixer_disabled {cfg : Config} (hpol : cfg.mixerActiveLow = true)
    (hmix : b.regs[regMixer] = 0x3F) : b.gate cfg c = true := by
  rw [← b.store_held regMixer, hmix]
  exact gate_store_mixer_disabled cfg hpol b c

/-- The volume byte 0x00 is the fixed level 0 (R173). -/
theorem Block.level_of_volume_zero (hvol : b.regs[regVolume c] = 0x00) : b.level c = 0 :=
  BitVec.eq_of_toNat_eq (by rw [Block.level_toNat, hvol]; rfl)

/-- With both gates open the output is monotonic in the level, as the table is (R176). -/
theorem Block.out_mono (cfg : Config) (hgate : b.gate cfg c = true) (hgate' : b'.gate cfg c = true)
    (hlevel : (b.level c).toNat ≤ (b'.level c).toNat) : b.out cfg c ≤ b'.out cfg c := by
  rw [b.out_of_gate cfg c hgate, b'.out_of_gate cfg c hgate']
  exact cfg.voltab_mono _ _ hlevel

end

/-- Settles O38: a closed or an open gate leaves 0 or the level's table entry, and equal inputs give equal bits and an
equal level. -/
theorem outputLaws : Obligations.OutputLaws := by
  refine ⟨fun cfg b c => (b.out_cases cfg c).imp_right fun h => ⟨_, h⟩, ?_,
    fun cfg b c hpol hmix => b.out_of_gate cfg c (Block.gate_of_mixer_disabled hpol hmix), ?_,
    fun cfg _ _ _ => Block.out_mono cfg⟩
  · intro cfg b b' c hmixT hmixN hvol hphase hlfsr henv
    refine Block.out_congr cfg hmixT hmixN ?_ ?_ (Block.level_congr hvol henv)
    · rw [Block.toneBit_eq_oddBit, Block.toneBit_eq_oddBit, oddBit_congr hphase]
    · rw [Block.noiseBit_eq_oddBit, Block.noiseBit_eq_oddBit, oddBit_congr hlfsr]
  · intro cfg b c hvol
    have hcases := b.out_cases cfg c
    rw [Block.level_of_volume_zero hvol] at hcases
    exact hcases

/-! ### Writes that change no output (R179) -/

/-- A `WR` to none of the mixer, the volumes and the shape changes no output. -/
theorem Block.outputs_wr_other (b : Block) {idx : Byte} (hmix : idx.toNat ≠ regMixer.val)
    (hvol : ∀ c, idx.toNat ≠ (regVolume c).val) (hshape : idx ≠ 13) (v : Byte) (cfg : Config) :
    (b.wr idx v).outputs cfg = b.outputs cfg := by
  refine Block.outputs_congr cfg (fun c => ?_) (fun c => ?_) (b.wr_tone idx v) (b.wr_noise idx v) fun c => ?_
  · rw [Block.toneOff, Block.wr_get, if_neg hmix, Block.toneOff]
  · rw [Block.noiseOff, Block.wr_get, if_neg hmix, Block.noiseOff]
  · rw [Block.level, Block.envSelect, Block.fixedLevel, Block.wr_get, if_neg (hvol c), Block.wr_env, if_neg hshape]
    rfl

/-! ### Writes that change an output (R179) -/

theorem Block.inv_reset : Block.reset.Inv where
  toneCnt := by decide
  noiseCnt := by decide
  lfsrNonzero := by decide
  envCnt := by decide
  envHold := by decide
  envAlt := by decide
  envUp := by decide
  envHolding := by decide

/-- A store to another register than `R[13]` keeps the invariant, which reads no other register. -/
theorem Block.Inv.store {b : Block} {k : Fin 16} (h : b.Inv) (hk : k ≠ regEnvShape) (v : Byte) :
    (b.store k v).Inv := by
  have hshape := Block.store_get_other b k regEnvShape v hk.symm
  obtain ⟨htone, hnoise, hlfsr, hcnt, hhold, halt, hup, hholding⟩ := h
  exact ⟨htone, hnoise, hlfsr, hcnt, hshape ▸ hhold, hshape ▸ halt, hshape ▸ hup, hshape ▸ hholding⟩

/-- The reset state with every input of the mixer disabled and the volume of channel A on the envelope: the output
codes are the table entries of the levels 15, 0 and 0. -/
def envelopeOnChannelA : State := (State.reset.writeReg regMixer 0x3F).writeReg (regVolume 0) 0x10

theorem inv_envelopeOnChannelA : envelopeOnChannelA.Inv :=
  (Block.inv_reset.store (k := regMixer) (by decide) 0x3F).store (k := regVolume 0) (by decide) 0x10

/-- From there the one byte 0x04 changes an output at each of the five registers: it enables the tone of channel A,
whose bit is 0; it is the fixed level 4 of a channel; and it is a shape that loads the level 0. -/
theorem outputs_wr_four_ne : ∀ i : Byte, i = 7 ∨ i = 8 ∨ i = 9 ∨ i = 10 ∨ i = 13 →
    (envelopeOnChannelA.block.wr i 0x04).outputs Config.identity ≠
      envelopeOnChannelA.block.outputs Config.identity := by
  rintro i (rfl | rfl | rfl | rfl | rfl) <;> decide

/-- Settles O39: no output reads another register than the five; each of the five changes the output of a state with
the invariant. -/
theorem writesThatChangeOutputs : Obligations.WritesThatChangeOutputs := by
  refine ⟨fun cfg i v s h7 h8 h9 h10 h13 => ⟨_, exec_ofWrite i v s, ?_⟩, fun i hi =>
    ⟨Config.identity, 0x04, envelopeOnChannelA, inv_envelopeOnChannelA, _, exec_ofWrite i _ _,
      outputs_wr_four_ne i hi⟩⟩
  have hvol : ∀ c, i.toNat ≠ (regVolume c).val := by
    intro c
    match c with
    | 0 => exact fun e => h8 (BitVec.eq_of_toNat_eq e)
    | 1 => exact fun e => h9 (BitVec.eq_of_toNat_eq e)
    | 2 => exact fun e => h10 (BitVec.eq_of_toNat_eq e)
  exact s.block.outputs_wr_other (fun e => h7 (BitVec.eq_of_toNat_eq e)) hvol h13 v cfg

end Sys2Proof.Machine
end

section
/-! PROOF. The tick (spec/45_tick_reset.md R185 to R187): what it reads and writes, and why the order of its five
generator steps is immaterial. -/

namespace Sys2Proof.Machine

/-! ### What a tick reads -/

/-- Tone generators are equal when those of every channel are. -/
theorem tone_ext {ts us : Vector Tone 3} (h : ∀ c : Fin 3, ts[c] = us[c]) : ts = us :=
  Vector.ext fun c hc => h ⟨c, hc⟩

theorem Tone.step_congr {tp tp' : BitVec 12} (h : effTonePeriod tp' = effTonePeriod tp) (t : Tone) :
    t.step tp' = t.step tp := by
  simp only [Tone.step, h]

theorem Noise.step_congr {np np' : BitVec 5} (h : effNoisePeriod np' = effNoisePeriod np) (g : Noise) :
    g.step np' = g.step np := by
  simp only [Noise.step, h]

theorem Envelope.step_congr {ep ep' : BitVec 16} (h : effEnvPeriod ep' = effEnvPeriod ep) (e : Envelope) :
    e.step ep' = e.step ep := by
  simp only [Envelope.step, h]

/-- A tick takes equal generators under equal effective periods to equal generators (R186). -/
theorem tick_of_generatorsKept {s s' : State} (h : GeneratorsKept s s')
    (htone : ∀ c, effTonePeriod (s'.block.tonePeriod c) = effTonePeriod (s.block.tonePeriod c))
    (hnoise : effNoisePeriod s'.block.noisePeriod = effNoisePeriod s.block.noisePeriod)
    (henv : effEnvPeriod s'.block.envPeriod = effEnvPeriod s.block.envPeriod) :
    ∃ t t', exec .tick s = .next t ∧ exec .tick s' = .next t' ∧ GeneratorsKept t t' := by
  obtain ⟨htones, hnoises, henvs⟩ := h
  refine ⟨_, _, exec_tick s, exec_tick s', tone_ext fun c => ?_, ?_, ?_⟩
  · simp only [State.act_block, Block.tick_tone, htones, Tone.step_congr (htone c)]
  · simp only [State.act_block, Block.tick_noise, hnoises, Noise.step_congr hnoise]
  · simp only [State.act_block, Block.tick_env, henvs, Envelope.step_congr henv]

section
variable {b b' : Block} (h : ∀ k : Fin 16, k.val ≤ 6 ∨ k.val = 11 ∨ k.val = 12 → b.regs[k] = b'.regs[k])
include h

/-- The tone periods stand in registers 0 to 5. -/
theorem tonePeriod_of_periodRegs (c : Fin 3) : b'.tonePeriod c = b.tonePeriod c := by
  have hlow : (regTonePeriodL c).val ≤ 6 := by simp only [regTonePeriodL]; omega
  have hhigh : (regTonePeriodH c).val ≤ 6 := by simp only [regTonePeriodH]; omega
  rw [Block.tonePeriod, ← h _ (.inl hlow), ← h _ (.inl hhigh), Block.tonePeriod]

theorem noisePeriod_of_periodRegs : b'.noisePeriod = b.noisePeriod := by
  rw [Block.noisePeriod, ← h _ (by decide), Block.noisePeriod]

theorem envPeriod_of_periodRegs : b'.envPeriod = b.envPeriod := by
  rw [Block.envPeriod, ← h _ (by decide), ← h _ (by decide), Block.envPeriod]

end

/-- Settles O26: a tick is its five steps, each of which reads its own generator and its effective period; period
registers that are equal, and the periods 0 and 1, have equal effective periods. -/
theorem tickReadsPeriodsAndWritesGenerators : Obligations.TickReadsPeriodsAndWritesGenerators := by
  refine ⟨decode_ofFields_tagT, fun s => ⟨_, exec_tick s, rfl, Envelope.step_hold _ _, Envelope.step_alt _ _,
    ⟨rfl, rfl, rfl⟩, s.block.tick_tone, rfl, rfl⟩, fun s s' hgen hregs => ?_, fun s s' hgen htone hnoise henv => ?_,
    ⟨_, exec_tick _, by decide⟩⟩
  · exact tick_of_generatorsKept hgen (fun c => congrArg _ (tonePeriod_of_periodRegs hregs c))
      (congrArg _ (noisePeriod_of_periodRegs hregs)) (congrArg _ (envPeriod_of_periodRegs hregs))
  · refine tick_of_generatorsKept hgen (fun c => ?_) ?_ ?_
    · rw [(htone c).1, (htone c).2]; rfl
    · rw [hnoise.1, hnoise.2]; rfl
    · rw [henv.1, henv.2]; rfl

/-! ### The order of the generator steps -/

/-- The steps of two tone generators commute: each writes its own generator. -/
theorem Block.genStep_tone_comm (b : Block) (c d : Fin 3) :
    (b.genStep (.tone c)).genStep (.tone d) = (b.genStep (.tone d)).genStep (.tone c) := by
  by_cases hcd : c = d
  · rw [hcd]
  · have hne : c.val ≠ d.val := fun e => hcd (Fin.ext e)
    have htone : ((b.genStep (.tone c)).genStep (.tone d)).tone = ((b.genStep (.tone d)).genStep (.tone c)).tone := by
      have hper : ∀ a a', (b.genStep (.tone a)).tonePeriod a' = b.tonePeriod a' := fun _ _ => rfl
      simp [hper, hne, hne.symm, Vector.set_comm _ _ hne]
    exact congrArg (fun ts => { b with tone := ts }) htone

/-- Any two generator steps commute: neither writes what the other reads (R187). -/
theorem Block.genStep_comm (b : Block) (g g' : GenStep) : (b.genStep g).genStep g' = (b.genStep g').genStep g := by
  cases g <;> cases g'
  case tone.tone c d => exact b.genStep_tone_comm c d
  all_goals rfl

/-- The steps of a tick in any order are the tick (R187). -/
theorem foldl_genStep_of_perm {order : List GenStep} (h : order.Perm tickOrder) (b : Block) :
    order.foldl Block.genStep b = b.tick :=
  h.foldl_eq' (fun g _ g' _ b => b.genStep_comm g g') b

/-- A tone generator after its own step. -/
theorem Block.genStep_tone_same (b : Block) (c : Fin 3) :
    (b.genStep (.tone c)).tone[c] = (b.tone[c]).step (b.tonePeriod c) :=
  Vector.getElem_set_self c.isLt

/-- A tick is the five steps done at once, each from the block before it (R187). -/
theorem Block.tick_eq_allAtOnce (b : Block) :
    b.tick = { b with
      tone := #v[(b.genStep (.tone 0)).tone[0], (b.genStep (.tone 1)).tone[1], (b.genStep (.tone 2)).tone[2]]
      noise := (b.genStep .noise).noise
      env := (b.genStep .env).env } := by
  have htone : b.tick.tone =
      #v[(b.genStep (.tone 0)).tone[0], (b.genStep (.tone 1)).tone[1], (b.genStep (.tone 2)).tone[2]] := by
    refine tone_ext fun c => ?_
    rw [Block.tick_tone]
    match c with
    | 0 => exact (b.genStep_tone_same 0).symm
    | 1 => exact (b.genStep_tone_same 1).symm
    | 2 => exact (b.genStep_tone_same 2).symm
  rw [← htone]
  rfl

/-- Settles O27: the order is a permutation of that of the tick, and the tick is the five steps at once. -/
theorem generatorStepsCommute : Obligations.GeneratorStepsCommute :=
  fun _ s hperm => ⟨_, exec_tick s, (foldl_genStep_of_perm hperm s.block).symm, s.block.tick_eq_allAtOnce⟩

end Sys2Proof.Machine
end

section
/-! PROOF. What only a reset can do (spec/45_tick_reset.md R190): every other operation but the tick keeps the tone and
noise generators, and the tick updates or keeps the shift register. -/

namespace Sys2Proof.Machine

/-- An instruction that neither ticks nor resets keeps the tone and noise generators. -/
theorem exec_keeps_tone_noise {i : Instr} (hreset : i ≠ .reset) (htick : i ≠ .tick) (s : State) :
    ExecGives i s fun t => t.block.tone = s.block.tone ∧ t.block.noise = s.block.noise := by
  obtain ⟨t, hexec, ⟨hi, -⟩ | ⟨hi, -⟩ | ⟨idx, v, -, ht⟩ | ⟨-, ht⟩⟩ := exec_block_cases i s
  · exact absurd hi htick
  · exact absurd hi hreset
  · exact ⟨t, hexec, by rw [ht, Block.wr_tone], by rw [ht, Block.wr_noise]⟩
  · exact ⟨t, hexec, by rw [ht], by rw [ht]⟩

/-- An instruction that does not reset keeps the shift register or updates it once. -/
theorem exec_lfsr_cases {i : Instr} (hreset : i ≠ .reset) (s : State) :
    ExecGives i s fun t =>
      t.block.noise.lfsr = s.block.noise.lfsr ∨ t.block.noise.lfsr = lfsrNext s.block.noise.lfsr := by
  by_cases htick : i = .tick
  · rw [htick]
    exact ⟨_, exec_tick s, Noise.step_lfsr_cases _ _⟩
  · obtain ⟨t, hexec, -, hnoise⟩ := exec_keeps_tone_noise hreset htick s
    exact ⟨t, hexec, .inl (congrArg Noise.lfsr hnoise)⟩

/-- Settles O44: from every state a reset reaches the one reset block, which holds the table and reads 0x00 at R7; the
other operations are followed by their cases. -/
theorem resetRestoresEverything : Obligations.ResetRestoresEverything := by
  refine ⟨decode_ofFields_tagZ, rfl, rfl, rfl,
    fun s => ⟨_, exec_reset s, Block.reset_holdsResetTable, rfl, rfl, rfl⟩, fun s => ?_,
    fun s s' => ⟨_, _, exec_reset s, exec_reset s', rfl⟩, fun i s hreset htick => exec_keeps_tone_noise hreset htick s,
    fun i s hreset => exec_lfsr_cases hreset s, fun s => ?_⟩
  · simp only [execAll, exec_reset]
  · exact execAllGives_cons (exec_reset s) ⟨_, rfl, congrArg some (Block.reset_getElem_regs 7 (by decide))⟩

end Sys2Proof.Machine
end

section
/-! PROOF. No operation faults or is refused (spec/60_exceptions.md R200): an instruction answers the state its effect
leaves, and a step executes the first pending word or is idle. -/

namespace Sys2Proof.Machine

/-- The state that `exec` answers is named: that of the instruction's effect by the general rules. -/
theorem exec_completes (i : Instr) (s : State) : Completes (exec i s) :=
  ⟨s.apply i.effect, exec_eq_apply_effect i s⟩

theorem step_of_pending_nil {s : State} (h : s.pending = []) : step s = .next s := by
  rw [step, State.fetch_of_nil s h]

theorem step_of_pending_cons {s : State} {w : OpWord} {rest : List OpWord} (h : s.pending = w :: rest) :
    step s = exec (decode w) { s with pending := rest } := by
  rw [step, State.fetch_of_cons s w rest h]

theorem step_completes (s : State) : Completes (step s) := by
  cases h : s.pending with
  | nil => exact ⟨s, step_of_pending_nil h⟩
  | cons w rest =>
    rw [step_of_pending_cons h]
    exact exec_completes _ _

/-- Settles O7: exec answers the state its effect leaves, and a step is one such execution or idle. -/
theorem everyOperationCompletes : Obligations.EveryOperationCompletes :=
  ⟨exec_completes, step_completes⟩

end Sys2Proof.Machine
end

section
/-! PROOF. The block as nobody has programmed it (spec/70_reset_and_hazards.md R222, R223): the signals that zero
registers derive, and the run of the generators from the reset state under their shortest periods. -/

namespace Sys2Proof.Machine

/-! ### The signals of zero registers -/

section
variable {b : Block} (cfg : Config) (c : Fin 3)

/-- The mixer byte 0x00 enables both inputs under the default polarity and disables both under the other (R171). -/
theorem Block.enabled_of_mixer_zero (hmix : b.regs[regMixer] = 0x00) :
    b.toneEnabled cfg c = cfg.mixerActiveLow ∧ b.noiseEnabled cfg c = cfg.mixerActiveLow := by
  have hbit (n : Nat) : (b.regs[regMixer]).getLsbD n = false := by rw [hmix]; exact BitVec.getLsbD_zero
  rw [b.toneEnabled_eq_bne, b.noiseEnabled_eq_bne, Block.toneOff, Block.noiseOff, hbit, hbit, Bool.false_bne]
  exact ⟨rfl, rfl⟩

/-- With both inputs enabled the gate is the AND of the tone and the noise bit, with both disabled it is 1 (R172). -/
theorem Block.gate_of_mixer_zero (hmix : b.regs[regMixer] = 0x00) :
    b.gate cfg c = (!cfg.mixerActiveLow || b.toneBit c && b.noiseBit) := by
  obtain ⟨htone, hnoise⟩ := Block.enabled_of_mixer_zero cfg c hmix
  rw [b.gate_eq_and, htone, hnoise, ← Bool.or_and_distrib_left]

/-- With the fixed level 0 as well, the output is 0 or entry 0 of the table (R174). -/
theorem Block.out_of_mixer_volume_zero (hmix : b.regs[regMixer] = 0x00) (hvol : b.regs[regVolume c] = 0x00) :
    b.out cfg c = if !cfg.mixerActiveLow || b.toneBit c && b.noiseBit then cfg.voltab 0 else 0 := by
  rw [Block.out, Block.gate_of_mixer_zero cfg c hmix, Block.level_of_volume_zero hvol]
  rfl

end

/-! ### The reset state (R222) -/

theorem Block.tonePeriod_reset (c : Fin 3) : Block.reset.tonePeriod c = 0 :=
  BitVec.eq_of_toNat_eq (by simp [Block.tonePeriod_toNat])

theorem Block.noisePeriod_reset : Block.reset.noisePeriod = 0 := by decide

theorem Block.envPeriod_reset : Block.reset.envPeriod = 0 := by decide

theorem Block.toneBit_reset (c : Fin 3) : Block.reset.toneBit c = false := by
  simp [Block.toneBit_eq_oddBit, oddBit]

theorem Block.noiseBit_reset : Block.reset.noiseBit = true := by decide

/-- Settles O40: the registers are 0, the tone bits 0 and the noise bit 1, so the gates are 0 & 1 where the inputs are
enabled and 1 where they are disabled. -/
theorem resetSignals : Obligations.ResetSignals := by
  intro cfg c
  have hmix : Block.reset.regs[regMixer] = 0x00 := Block.reset_getElem_regs _ _
  have hvol : Block.reset.regs[regVolume c] = 0x00 := Block.reset_getElem_regs _ _
  have hselect : Block.reset.envSelect c = false := by
    rw [Block.envSelect_eq_oddBit, hvol]
    rfl
  have hgate := Block.gate_of_mixer_zero cfg c hmix
  have hout := Block.out_of_mixer_volume_zero cfg c hmix hvol
  obtain ⟨htone, hnoise⟩ := Block.enabled_of_mixer_zero cfg c hmix
  rw [Block.toneBit_reset, Block.noiseBit_reset] at hgate hout
  refine ⟨Block.tonePeriod_reset c, Block.noisePeriod_reset, Block.envPeriod_reset,
    congrArg effTonePeriod (Block.tonePeriod_reset c), congrArg effNoisePeriod Block.noisePeriod_reset,
    congrArg effEnvPeriod Block.envPeriod_reset, Block.toneBit_reset c, Block.noiseBit_reset,
    Block.level_of_volume_zero hvol, hselect, fun hpol => ?_, fun hpol => ?_⟩
  all_goals
    rw [hpol] at htone hnoise hgate hout
    exact ⟨htone, hnoise, hgate, hout⟩

/-! ### The run from the reset state (R223) -/

/-- What every tick carries to the next number of ticks holds after n ticks. -/
theorem tickMany_of_tick {P : Nat → Block → Prop} (htick : ∀ n b, P n b → P (n + 1) b.tick) {s : State}
    (h : P 0 s.block) (n : Nat) : ∃ t, tickMany n s = .next t ∧ P n t.block := by
  have hticks : ∀ i ∈ List.replicate n Instr.tick, i = .tick := fun i => List.eq_of_mem_replicate
  have hrun := execAllGives_of_tick_of_wr htick (fun i hi => by rw [hticks i hi]; nofun)
    (fun i hi idx v hop => by rw [hticks i hi] at hop; exact Op.noConfusion hop) h
  rwa [List.count_replicate_self, Nat.zero_add] at hrun

/-- The block n ticks after the reset state: the registers are those of the reset, and each generator is n ticks into
its run under its shortest period, of 1, 2 and 2 ticks. -/
structure UnprogrammedAfter (n : Nat) (b : Block) : Prop where
  regs : b.regs = Block.reset.regs
  tone : ∀ c, ToneWave c 1 0 n b
  noise : NoiseRun noiseSeed 2 n b
  env : EnvelopeRun (Envelope.load 0) 2 n b

theorem unprogrammedAfter_zero : UnprogrammedAfter 0 State.reset.block where
  regs := rfl
  tone c := ⟨congrArg effTonePeriod (Block.tonePeriod_reset c), (Block.reset_holdsResetTable.tone c).1,
    (Block.reset_holdsResetTable.tone c).2⟩
  noise := ⟨congrArg effNoisePeriod Block.noisePeriod_reset, rfl, rfl⟩
  env := ⟨congrArg effEnvPeriod Block.envPeriod_reset, rfl, rfl⟩

theorem UnprogrammedAfter.tick {n : Nat} {b : Block} (h : UnprogrammedAfter n b) :
    UnprogrammedAfter (n + 1) b.tick where
  regs := h.regs
  tone c := (h.tone c).tick
  noise := h.noise.tick
  env := h.env.tick

section
variable {n : Nat} {b : Block} (h : UnprogrammedAfter n b)
include h

/-- Under the period 1 every tick toggles the tone bit (R137). -/
theorem UnprogrammedAfter.toneBit (c : Fin 3) : b.toneBit c = oddBit n := by
  rw [(h.tone c).toneBit, Nat.div_one]
  exact Bool.false_xor _

/-- The envelope of shape 0 steps every second tick, falls to 0 and has stopped from its step 16 on (R152). -/
theorem UnprogrammedAfter.env_level_holding :
    b.env.level.toNat = 15 - n / 2 ∧ b.env.holding = decide (32 ≤ n) := by
  obtain ⟨hlevel, hholding⟩ := levelStep_iterate_load 0 (n / 2)
  rw [← h.env.env] at hlevel hholding
  have hfall : trajectory 0 (n / 2) = 15 - n / 2 := by
    simp only [trajectory]
    split <;> omega
  exact ⟨hlevel.trans hfall, hholding.trans (decide_eq_decide.mpr (Nat.le_div_iff_mul_le Nat.two_pos))⟩

/-- Under the default polarity the output is entry 0 of the table where tone and noise bit are 1 (R172 to R174). -/
theorem UnprogrammedAfter.out {cfg : Config} (hpol : cfg.mixerActiveLow = true) (c : Fin 3) :
    b.out cfg c = if oddBit n && (lfsrNext^[n / 2] noiseSeed).getLsbD 0 then cfg.voltab 0 else 0 := by
  have hregs (k : Fin 16) : b.regs[k] = 0x00 := by
    rw [h.regs]
    exact Block.reset_getElem_regs k k.isLt
  rw [Block.out_of_mixer_volume_zero cfg c (hregs _) (hregs _), hpol, h.toneBit, Block.noiseBit, h.noise.lfsr]
  rfl

end

/-- Settles O41: from the reset state every tick carries the runs of the generators on, and the signals after n ticks
are theirs. -/
theorem unprogrammedRun : Obligations.UnprogrammedRun := by
  intro n
  obtain ⟨t, hrun, h⟩ := tickMany_of_tick (fun _ _ => UnprogrammedAfter.tick) unprogrammedAfter_zero n
  obtain ⟨hlevel, hholding⟩ := h.env_level_holding
  exact ⟨t, hrun, h.toneBit, h.noise.lfsr, hlevel, hholding, fun _ c hpol => h.out hpol c⟩

end Sys2Proof.Machine
end

section
/-! PROOF. Encoding and decoding are inverse on the well-formed instructions, and a run executes the pending words by
the general rules (spec/30_encoding.md R70 to R74, R86; spec/20_memory.md R58). -/

namespace Sys2Proof

/-- A well-formed instruction is the row of the operation that it is: only the out-of-range rows need their check. -/
theorem Instr.toInstr_toOp {i : Instr} (h : i.wellFormed = true) : i.toOp.toInstr = i := by
  cases i
  case wrOor idx v => exact Instr.ofWrite_of_outOfRange v h
  case rdOor idx => exact Instr.ofRead_of_outOfRange h
  all_goals rfl

/-- The word of an abstract operation decodes to its instruction (R70, R86). -/
theorem decode_encodeOp (op : Op) : decode (encodeOp op) = op.toInstr := by
  cases op with
  | wr i v => exact decode_ofFields_tagW i v
  | rd i => exact decode_ofFields_tagR i 0
  | tick => exact decode_ofFields_tagT 0 0
  | reset => exact decode_ofFields_tagZ 0 0

theorem decode_encode {i : Instr} (h : i.wellFormed = true) : decode (encode i) = i :=
  (decode_encodeOp i.toOp).trans (Instr.toInstr_toOp h)

/-- An operation word is below 2^18, so the 24 bits of the opcode table hold it whole. -/
theorem OpWord.toNat_mod_table (w : OpWord) : w.toNat % 2 ^ 24 = w.toNat :=
  Nat.mod_eq_of_lt (Nat.lt_trans w.isLt (by decide))

theorem decodeTableWord_toNat (w : OpWord) : decodeTableWord 24 w.toNat = some (decode w) := by
  rw [decodeTableWord, w.toNat_mod_table, decodeNat, if_pos w.isLt, BitVec.ofNat_toNat, BitVec.setWidth_eq]

/-- Settles O1: the word decodes by its tag to the row of its operation, which for a well-formed instruction is the
instruction itself. -/
theorem decodeInvertsEncode : Obligations.DecodeInvertsEncode := fun _ h =>
  ⟨decode_encode h, (decodeTableWord_toNat _).trans (congrArg some (decode_encode h))⟩

/-- Settles O4: each word is closed, and the decoder is evaluated on it. -/
theorem writtenOutWordsDecode : Obligations.WrittenOutWordsDecode := by
  unfold Obligations.WrittenOutWordsDecode
  decide

end Sys2Proof

namespace Sys2Proof.Machine

/-! ### One step -/

/-- The word put in front by `withFetchWord` is the first pending one. -/
theorem State.withFetchWord_encode (s : State) (i : Instr) :
    s.withFetchWord 24 (encode i).toNat = { s with pending := encode i :: s.pending } := by
  rw [State.withFetchWord, OpWord.toNat_mod_table, State.issue_of_lt s _ (encode i).isLt, BitVec.ofNat_toNat,
    BitVec.setWidth_eq]

theorem step_of_pending_encode {s : State} {i : Instr} {rest : List OpWord} (hi : i.wellFormed = true)
    (h : s.pending = encode i :: rest) : step s = exec i { s with pending := rest } := by
  rw [step_of_pending_cons h, decode_encode hi]

/-- Settles O6: a step decodes the first pending word, and decoding inverts encoding. -/
theorem stepRunsDecodedOperation : Obligations.StepRunsDecodedOperation := by
  refine ⟨fun _ _ _ => step_of_pending_cons, fun _ _ _ => step_of_pending_encode,
    fun _ => step_of_pending_nil, fun s i hi => ?_⟩
  rw [s.withFetchWord_encode i]
  exact step_of_pending_encode hi rfl

/-! ### A run of pending words -/

/-- No operation reads or writes the pending words: it may be applied before or after they are replaced. -/
theorem State.apply_withPending (s : State) (op : Op) (ws : List OpWord) :
    ({ s with pending := ws } : State).apply op = { s.apply op with pending := ws } := by
  cases op with
  | rd i =>
    simp only [State.apply]
    split <;> rfl
  | wr i v => rfl
  | tick => rfl
  | reset => rfl

theorem step_of_pending_encodeOp {s : State} {op : Op} {rest : List OpWord} (h : s.pending = encodeOp op :: rest) :
    step s = .next { s.apply op with pending := rest } := by
  rw [step_of_pending_cons h, decode_encodeOp, exec_toInstr, State.apply_withPending]

theorem stepMany_succ_of_next {s t : State} (h : step s = .next t) (n : Nat) :
    stepMany (n + 1) s = stepMany n t := by
  rw [stepMany, h]

/-- As many steps as there are words of operations fold the general rules over them (R58, R214). -/
theorem stepMany_of_pending {s : State} {ops : List Op} {rest : List OpWord}
    (h : s.pending = ops.map encodeOp ++ rest) :
    stepMany ops.length s = .next (ops.foldl State.apply { s with pending := rest }) := by
  induction ops generalizing s with
  | nil =>
    have hs : ({ s with pending := rest } : State) = s := by rw [← show s.pending = rest from h]
    rw [List.foldl_nil, hs]
    rfl
  | cons op ops ih =>
    rw [List.length_cons, stepMany_succ_of_next (step_of_pending_encodeOp h), List.foldl_cons,
      s.apply_withPending op rest]
    exact ih (s := { s.apply op with pending := ops.map encodeOp ++ rest }) rfl

theorem stepMany_eq_execAll {s : State} {ops : List Op} {rest : List OpWord}
    (h : s.pending = ops.map encodeOp ++ rest) :
    stepMany ops.length s = execAll (ops.map Op.toInstr) { s with pending := rest } := by
  rw [stepMany_of_pending h, execAll_map_toInstr]

/-- A step that answers a next state is the first of a run. -/
theorem core_run_succ_of_next {M : Host.Core} {s t : M.State} (h : M.step s = .next t) (n : Nat) :
    M.run (n + 1) s = M.run n t := by
  rw [Host.Core.run, h]

/-- The host's run of the machine is the model's. -/
theorem core_run_eq_stepMany (n : Nat) (s : State) : Host.Core.run core n s = stepMany n s := by
  induction n generalizing s with
  | zero => rfl
  | succ n ih =>
    obtain ⟨t, hstep⟩ := step_completes s
    rw [stepMany_succ_of_next hstep]
    exact (core_run_succ_of_next (M := core) hstep n).trans (ih t)

/-- Settles O8: by induction on the operations, whose words the steps take one by one. -/
theorem runExecutesPendingInOrder : Obligations.RunExecutesPendingInOrder := fun s _ _ h =>
  ⟨stepMany_of_pending h, (stepMany_eq_execAll h).symm, core_run_eq_stepMany _ s⟩

end Sys2Proof.Machine
end

section
/-! PROOF. The invariant (spec/10_state.md R38 to R40; spec/42_envelope.md R149, R151; spec/43_noise.md R166): the
counters stay below the periods in force, and the envelope stays one that its shape can reach. -/

namespace Sys2Proof.Machine

/-! ### Counters -/

/-- Settles O28: each generator step ends below its own period. -/
theorem tickBoundsEveryCounter : Obligations.TickBoundsEveryCounter := by
  refine fun s => ⟨_, exec_tick s, fun c => ?_, Noise.step_cnt_lt _ _, Envelope.step_cnt_lt _ _⟩
  rw [State.act_block, Block.tick_tone]
  exact Tone.step_cnt_lt _ _

/-! ### The envelope of a shape -/

/-- The envelope has the flags of the normalised shape v, the direction it started with unless it bounces, and rests,
once stopped, at the end that R149 (a) names. -/
structure Envelope.Follows (v : Byte) (e : Envelope) : Prop where
  hold : e.hold = normHold v
  alt : e.alt = normAlt v
  up : (e.hold = true ∨ e.alt = false) → e.up = normAtt v
  holding : e.holding = true → e.hold = true ∧ e.level = if (normAtt v ^^ e.alt) then 15 else 0

theorem Envelope.follows_load (v : Byte) : (Envelope.load v).Follows v :=
  ⟨rfl, rfl, fun _ => rfl, nofun⟩

section
variable {v : Byte} {e : Envelope} (h : e.Follows v)
include h

/-- The counter plays no part in following a shape. -/
theorem Envelope.Follows.withCnt (n : BitVec 17) : ({ e with cnt := n } : Envelope).Follows v :=
  ⟨h.hold, h.alt, h.up, h.holding⟩

/-- While it has not stopped, an envelope may be at any level. -/
theorem Envelope.Follows.withLevel (hrun : e.holding = false) (l : BitVec 4) :
    ({ e with level := l } : Envelope).Follows v :=
  ⟨h.hold, h.alt, h.up, fun hstop => absurd (hrun.symm.trans hstop) Bool.false_ne_true⟩

/-- The saturating step clamps a shape that holds at its resting end, and turns only one that bounces (R149). -/
theorem Envelope.Follows.saturate (hrun : e.holding = false) (hend : e.level = if e.up then topLevel else 0) :
    e.saturate.Follows v := by
  obtain ⟨hhold, hsat⟩ | ⟨hhold, halt, hsat⟩ | ⟨-, -, hsat⟩ := e.saturate_cases <;> rw [hsat]
  · refine ⟨h.hold, h.alt, h.up, fun _ => ⟨hhold, ?_⟩⟩
    simp only [hend, h.up (.inl hhold)]
    cases normAtt v <;> cases e.alt <;> rfl
  · refine ⟨h.hold, h.alt, fun hdir => ?_, fun hstop => absurd (hrun.symm.trans hstop) Bool.false_ne_true⟩
    rcases hdir with hdir | hdir
    · exact absurd (hhold.symm.trans hdir) Bool.false_ne_true
    · exact absurd (hdir.symm.trans halt) Bool.false_ne_true
  · exact h.withLevel hrun _

theorem Envelope.Follows.levelStep : e.levelStep.Follows v := by
  obtain ⟨-, hstep⟩ | ⟨hrun, -, -, hstep⟩ | ⟨hrun, -, -, hstep⟩ | ⟨hrun, hend, hstep⟩ := e.levelStep_cases <;>
    rw [hstep]
  · exact h
  · exact h.withLevel hrun _
  · exact h.withLevel hrun _
  · exact h.saturate hrun hend

theorem Envelope.Follows.step (ep : BitVec 16) : (e.step ep).Follows v := by
  rcases Nat.lt_or_ge (e.cnt.toNat + 1) (effEnvPeriod ep) with hlt | hge
  · rw [(Envelope.step_of_lt ep e hlt).1]
    exact h.withCnt _
  · rw [Envelope.step_of_ge ep e hge]
    exact (h.withCnt 0).levelStep

end

/-! ### Operations keep the invariant -/

/-- The invariant's clauses about the envelope flags are that it follows the stored shape. -/
theorem Block.Inv.follows {b : Block} (h : b.Inv) : b.env.Follows b.regs[regEnvShape] :=
  ⟨h.envHold, h.envAlt, h.envUp, h.envHolding⟩

/-- A shape write keeps the tone and noise generators and loads an envelope that follows the new shape (R115). -/
theorem Block.Inv.writeShape {b : Block} (h : b.Inv) (v : Byte) : ((b.store regEnvShape v).loadEnvelope v).Inv := by
  have hshape : ((b.store regEnvShape v).loadEnvelope v).regs[regEnvShape] = v := b.store_get_same regEnvShape v
  obtain ⟨hhold, halt, hup, hholding⟩ := Envelope.follows_load v
  exact ⟨h.toneCnt, h.noiseCnt, h.lfsrNonzero, Nat.zero_le _, hshape.symm ▸ hhold, hshape.symm ▸ halt,
    hshape.symm ▸ hup, hshape.symm ▸ hholding⟩

theorem Block.Inv.wr {b : Block} (h : b.Inv) (i v : Byte) : (b.wr i v).Inv := by
  cases i using index_cases with
  | oor i hi => rw [b.wr_of_lt v hi]; exact h
  | shape => exact h.writeShape v
  | register k hk => rw [b.wr_register hk]; exact h.store hk v

/-- A tick leaves every count below the period in force, which is at most one more than the bound of the counter. -/
theorem Block.Inv.tick {b : Block} (h : b.Inv) : b.tick.Inv := by
  obtain ⟨hhold, halt, hup, hholding⟩ := h.follows.step b.envPeriod
  refine ⟨fun c => ?_, ?_, b.apply_lfsr_ne_zero h.lfsrNonzero .tick, ?_, hhold, halt, hup, hholding⟩
  · have hlt := Tone.step_cnt_lt (b.tonePeriod c) b.tone[c]
    have hmax := (effTonePeriod_bounds (b.tonePeriod c)).2
    rw [Block.tick_tone]
    omega
  · have hlt := Noise.step_cnt_lt b.noisePeriod b.noise
    have hmax := (effNoisePeriod_bounds b.noisePeriod).2
    rw [Block.tick_noise]
    omega
  · have hlt := Envelope.step_cnt_lt b.envPeriod b.env
    have hmax := (effEnvPeriod_bounds b.envPeriod).2
    rw [Block.tick_env]
    omega

theorem Block.Inv.apply {b : Block} (h : b.Inv) (op : Op) : (b.apply op).Inv := by
  cases op with
  | wr i v => exact h.wr i v
  | rd i => exact h
  | tick => exact h.tick
  | reset => exact Block.inv_reset

theorem exec_keeps_inv (i : Instr) {s : State} (h : s.Inv) : ExecGives i s State.Inv := by
  refine ⟨_, exec_eq_apply_effect i s, ?_⟩
  rw [State.Inv, State.apply_block]
  exact Block.Inv.apply h _

theorem step_keeps_inv {s : State} (h : s.Inv) : ∃ t, step s = .next t ∧ t.Inv := by
  cases hp : s.pending with
  | nil => exact ⟨s, step_of_pending_nil hp, h⟩
  | cons w rest =>
    rw [step_of_pending_cons hp]
    exact exec_keeps_inv _ (s := { s with pending := rest }) h

/-- Settles O45: the invariant of the reset block. -/
theorem resetHasTheInvariant : Obligations.ResetHasTheInvariant := Block.inv_reset

/-- Settles O46: a step is idle or one instruction, and every instruction has the effect of an operation that keeps the
invariant. -/
theorem everyStepKeepsTheInvariant : Obligations.EveryStepKeepsTheInvariant :=
  ⟨fun _ => step_keeps_inv, fun i _ => exec_keeps_inv i⟩

end Sys2Proof.Machine
end

section
/-! PROOF. What the host can see (spec/10_state.md R42; spec/20_memory.md R62; spec/40_register_ops.md R120, R122): the
register file and the number of bytes drawn decide every reply and follow from themselves, and a tick touches
neither. -/

namespace Sys2Proof.Machine

/-- The states agree on all that a reply depends on (R42, log 4). -/
structure HostAgree (s s' : State) : Prop where
  regs : s.block.regs = s'.block.regs
  draws : s.draws = s'.draws

theorem Block.wr_regs_congr {b b' : Block} (h : b.regs = b'.regs) (i v : Byte) :
    (b.wr i v).regs = (b'.wr i v).regs := by
  refine Vector.ext fun k hk => ?_
  change (b.wr i v).regs[(⟨k, hk⟩ : Fin 16)] = (b'.wr i v).regs[(⟨k, hk⟩ : Fin 16)]
  rw [Block.wr_get, Block.wr_get, h]

section
variable {s s' : State} (h : HostAgree s s')
include h

/-- An operation returns the same to the host, and leaves the states agreeing. -/
theorem HostAgree.apply (op : Op) :
    HostAgree (s.apply op) (s'.apply op) ∧ (s.apply op).reply = (s'.apply op).reply := by
  cases op with
  | wr i v => exact ⟨⟨Block.wr_regs_congr h.regs i v, h.draws⟩, rfl⟩
  | rd i =>
    simp only [State.apply, Block.read, h.regs, h.draws]
    split <;> exact ⟨⟨h.regs, rfl⟩, rfl⟩
  | tick => exact ⟨⟨h.regs, h.draws⟩, rfl⟩
  | reset => exact ⟨⟨rfl, h.draws⟩, rfl⟩

/-- A tick of one of the states leaves them agreeing (R186). -/
theorem HostAgree.tick_left : HostAgree (s.apply .tick) s' := ⟨h.regs, h.draws⟩

end

/-! ### Runs -/

/-- The state at the end of a run. -/
def finalState (is : List Instr) (s : State) : State := (is.map Instr.effect).foldl State.apply s

theorem execAll_eq_finalState (is : List Instr) (s : State) : execAll is s = .next (finalState is s) :=
  execAll_eq_foldl_effect is s

theorem replies_cons (i : Instr) (is : List Instr) (s : State) :
    replies (i :: is) s = (s.apply i.effect).reply.toList ++ replies is (s.apply i.effect) := by
  rw [replies, exec_eq_apply_effect]

/-- The ticks of a run change neither the bytes the host reads nor what later replies depend on (R42, R62). -/
theorem replies_filter_tick (is : List Instr) {s s' : State} (h : HostAgree s s') :
    replies is s = replies (is.filter (· ≠ .tick)) s' ∧
      HostAgree (finalState is s) (finalState (is.filter (· ≠ .tick)) s') := by
  induction is generalizing s s' with
  | nil => exact ⟨rfl, h⟩
  | cons i is ih =>
    by_cases hi : i = .tick
    · rw [hi, List.filter_cons_of_neg (by simp), replies_cons]
      exact ih h.tick_left
    · obtain ⟨hagree, hreply⟩ := h.apply i.effect
      obtain ⟨hreplies, hfinal⟩ := ih hagree
      rw [List.filter_cons_of_pos (by simpa using hi), replies_cons, replies_cons, hreply, hreplies]
      exact ⟨rfl, hfinal⟩

/-- Settles O22: both runs return what the run without its ticks returns from the second state. -/
theorem readsNeverShowGeneratorState : Obligations.ReadsNeverShowGeneratorState := by
  intro is s s' hregs hdraws
  obtain ⟨hreplies, hfinal⟩ := replies_filter_tick is ⟨hregs, hdraws⟩
  obtain ⟨hreplies', hfinal'⟩ := replies_filter_tick is (⟨rfl, rfl⟩ : HostAgree s' s')
  exact ⟨hreplies.trans hreplies'.symm, _, _, execAll_eq_finalState is s, execAll_eq_finalState is s',
    hfinal.regs.trans hfinal'.regs.symm, hfinal.draws.trans hfinal'.draws.symm⟩

/-! ### Schedules -/

theorem Op.toInstr_eq_tick_iff {op : Op} : op.toInstr = .tick ↔ op = .tick := by
  refine ⟨fun h => ?_, fun h => by rw [h]; rfl⟩
  cases op with
  | wr i v => exact Op.noConfusion ((Instr.toOp_ofWrite i v).symm.trans (congrArg Instr.toOp h))
  | rd i => exact Op.noConfusion ((Instr.toOp_ofRead i).symm.trans (congrArg Instr.toOp h))
  | tick => rfl
  | reset => exact Instr.noConfusion h

/-- Of an entry's operations, those of the host's entries alone are no ticks (R57). -/
theorem Event.filter_ops_ne_tick (e : Event) :
    e.ops.filter (· ≠ .tick) = if e.agent == .host then e.ops else [] := by
  cases e with
  | batch ws =>
    refine List.filter_eq_self.mpr fun op hop => ?_
    obtain ⟨p, -, rfl⟩ := List.mem_map.mp hop
    rfl
  | rd i => rfl
  | reset => rfl
  | tick => rfl

/-- A schedule without its ticks is what the host issues (R58). -/
theorem Schedule.filter_ops_ne_tick (sch : Schedule) :
    (Schedule.ops sch).filter (· ≠ .tick) = Schedule.ops (Schedule.hostEvents sch) := by
  induction sch with
  | nil => rfl
  | cons e sch ih =>
    have hcons (l : Schedule) : Schedule.ops (e :: l) = e.ops ++ Schedule.ops l := List.flatMap_cons
    rw [hcons, List.filter_append, ih, e.filter_ops_ne_tick, Schedule.hostEvents, Schedule.hostEvents,
      List.filter_cons]
    split
    · rw [hcons]
    · rfl

theorem Schedule.filter_instrs_ne_tick (sch : Schedule) :
    ((Schedule.ops sch).map Op.toInstr).filter (· ≠ .tick) =
      (Schedule.ops (Schedule.hostEvents sch)).map Op.toInstr := by
  rw [List.filter_map, ← sch.filter_ops_ne_tick]
  simp only [Function.comp_def, ne_eq, Op.toInstr_eq_tick_iff]

/-- Settles O47: the run of the schedule without its ticks is the run of the host's operations. -/
theorem interleavingLeavesTheRegisters : Obligations.InterleavingLeavesTheRegisters := by
  intro host sch s hadmits
  have hhost : Schedule.hostEvents sch = host := eq_of_beq (Bool.and_eq_true_iff.mp hadmits).1
  obtain ⟨hreplies, hfinal⟩ := replies_filter_tick ((Schedule.ops sch).map Op.toInstr) (⟨rfl, rfl⟩ : HostAgree s s)
  rw [sch.filter_instrs_ne_tick, hhost] at hreplies hfinal
  exact ⟨hreplies, _, _, execAll_eq_finalState _ s, execAll_eq_finalState _ s, hfinal.regs, hfinal.draws⟩

end Sys2Proof.Machine
end

section
/-! PROOF. Independence of the generators (spec/41_tone.md R136; spec/42_envelope.md R155; spec/43_noise.md R164): a
part of the block whose ticks read itself and some registers alone depends on these alone through any run. -/

namespace Sys2Proof.Machine

/-- The blocks agree on the registers ks and on the part that gen names. -/
structure AgreesOn {α : Type} (ks : List (Fin 16)) (gen : Block → α) (b b' : Block) : Prop where
  regs : ∀ k ∈ ks, b.regs[k] = b'.regs[k]
  gen : gen b = gen b'

section
variable {α : Type} {ks : List (Fin 16)} {gen : Block → α}

/-- An operation keeps the agreement when writes and ticks keep that of the part. -/
theorem AgreesOn.apply {b b' : Block} (hwr : ∀ b b' i v, gen b = gen b' → gen (b.wr i v) = gen (b'.wr i v))
    (htick : ∀ b b', AgreesOn ks gen b b' → gen b.tick = gen b'.tick) (h : AgreesOn ks gen b b') (op : Op) :
    AgreesOn ks gen (b.apply op) (b'.apply op) := by
  cases op with
  | wr i v =>
    refine ⟨fun k hk => ?_, hwr b b' i v h.gen⟩
    simp only [Block.apply, Block.wr_get, h.regs k hk]
  | rd i => exact h
  | tick => exact ⟨h.regs, htick b b' h⟩
  | reset => exact ⟨fun _ _ => rfl, rfl⟩

theorem AgreesOn.run (hwr : ∀ b b' i v, gen b = gen b' → gen (b.wr i v) = gen (b'.wr i v))
    (htick : ∀ b b', AgreesOn ks gen b b' → gen b.tick = gen b'.tick) (is : List Instr) {s s' : State}
    (h : AgreesOn ks gen s.block s'.block) : AgreesOn ks gen (finalState is s).block (finalState is s').block :=
  List.foldl_rel (r := fun t u : State => AgreesOn ks gen t.block u.block) h fun op _ t u htu => by
    rw [State.apply_block, State.apply_block]
    exact AgreesOn.apply hwr htick htu op

end

section
variable {b b' : Block}

/-- A tone generator's tick reads its own state and its two period registers (R136 (d)). -/
theorem AgreesOn.tick_tone {c : Fin 3}
    (h : AgreesOn [regTonePeriodL c, regTonePeriodH c] (fun b => b.tone[c]) b b') :
    b.tick.tone[c] = b'.tick.tone[c] := by
  have hper : b.tonePeriod c = b'.tonePeriod c := by
    rw [Block.tonePeriod, h.regs _ (by simp), h.regs _ (by simp), Block.tonePeriod]
  rw [Block.tick_tone, Block.tick_tone, hper, show b.tone[c] = b'.tone[c] from h.gen]

/-- The noise generator's tick reads its own state and register 6 (R164 (d)). -/
theorem AgreesOn.tick_noise (h : AgreesOn [regNoisePeriod] Block.noise b b') : b.tick.noise = b'.tick.noise := by
  have hper : b.noisePeriod = b'.noisePeriod := by
    rw [Block.noisePeriod, h.regs _ (by simp), Block.noisePeriod]
  rw [Block.tick_noise, Block.tick_noise, hper, h.gen]

/-- The envelope generator's tick reads its own state and registers 11 and 12 (R155). -/
theorem AgreesOn.tick_env (h : AgreesOn [regEnvPeriodL, regEnvPeriodH] Block.env b b') : b.tick.env = b'.tick.env := by
  have hper : b.envPeriod = b'.envPeriod := by
    rw [Block.envPeriod, h.regs _ (by simp), h.regs _ (by simp), Block.envPeriod]
  rw [Block.tick_env, Block.tick_env, hper, h.gen]

end

/-- Settles O33: for each generator, agreement on it and its period registers is kept through the run. -/
theorem generatorsAreIndependent : Obligations.GeneratorsAreIndependent := by
  refine fun is s s' => ⟨_, _, execAll_eq_finalState is s, execAll_eq_finalState is s', fun c hgen hlow hhigh => ?_,
    fun hgen hreg => ?_, fun hgen hlow hhigh => ?_⟩
  · have hstart : AgreesOn [regTonePeriodL c, regTonePeriodH c] (fun b => b.tone[c]) s.block s'.block :=
      ⟨List.forall_mem_cons.mpr ⟨hlow, List.forall_mem_singleton.mpr hhigh⟩, hgen⟩
    exact (hstart.run (fun b b' i v h => by rw [Block.wr_tone, Block.wr_tone, h])
      (fun _ _ => AgreesOn.tick_tone) is).gen
  · have hstart : AgreesOn [regNoisePeriod] Block.noise s.block s'.block :=
      ⟨List.forall_mem_singleton.mpr hreg, hgen⟩
    exact (hstart.run (fun b b' i v h => by rw [Block.wr_noise, Block.wr_noise, h])
      (fun _ _ => AgreesOn.tick_noise) is).gen
  · have hstart : AgreesOn [regEnvPeriodL, regEnvPeriodH] Block.env s.block s'.block :=
      ⟨List.forall_mem_cons.mpr ⟨hlow, List.forall_mem_singleton.mpr hhigh⟩, hgen⟩
    exact (hstart.run (fun b b' i v h => by rw [Block.wr_env, Block.wr_env, h])
      (fun _ _ => AgreesOn.tick_env) is).gen

end Sys2Proof.Machine
end

section
/-! PROOF. The quiet state (spec/70_reset_and_hazards.md R225): with every input of the mixer disabled and the fixed
levels 0, which no tick changes, the outputs do not depend on any generator. -/

namespace Sys2Proof.Machine

/-- Every input of the mixer is disabled, and every channel has the fixed level 0. -/
structure QuietRegs (b : Block) : Prop where
  mixer : b.regs[regMixer] = 0x3F
  volume : ∀ c, b.regs[regVolume c] = 0x00

/-- A tick writes no register (R186). -/
theorem QuietRegs.tick {b : Block} (h : QuietRegs b) : QuietRegs b.tick := ⟨h.mixer, h.volume⟩

/-- The gate is open and the level 0 (R172, R173). -/
theorem QuietRegs.out {cfg : Config} (hpol : cfg.mixerActiveLow = true) {b : Block} (h : QuietRegs b) (c : Fin 3) :
    b.out cfg c = cfg.voltab 0 := by
  rw [b.out_of_gate cfg c (Block.gate_of_mixer_disabled hpol h.mixer), Block.level_of_volume_zero (h.volume c)]
  rfl

/-- The state after the four writes of R225. -/
def State.quieten (s : State) : State :=
  (((s.writeReg regMixer 0x3F).writeReg (regVolume 0) 0x00).writeReg (regVolume 1) 0x00).writeReg (regVolume 2) 0x00

theorem quietRegs_quieten (s : State) : QuietRegs s.quieten.block := by
  have hget (k : Fin 16) : s.quieten.block.regs[k] =
      if k = regVolume 2 ∨ k = regVolume 1 ∨ k = regVolume 0 then 0x00
      else if k = regMixer then 0x3F else s.block.regs[k] := by
    simp only [State.quieten, State.writeReg_block, Block.store_get, ite_or]
  refine ⟨hget regMixer, fun c => (hget _).trans (if_pos ?_)⟩
  match c with
  | 0 => exact .inr (.inr rfl)
  | 1 => exact .inr (.inl rfl)
  | 2 => exact .inl rfl

/-- Settles O42: the four writes leave quiet registers, every tick keeps them, and they alone give the outputs. -/
theorem quietStateIsConstant : Obligations.QuietStateIsConstant := by
  intro cfg s n hpol
  obtain ⟨t, hrun, hquiet⟩ := tickMany_of_tick (P := fun _ => QuietRegs) (fun _ _ => QuietRegs.tick)
    (quietRegs_quieten s) n
  exact ⟨t, hrun, hquiet.out hpol⟩

end Sys2Proof.Machine
end

section
/-! PROOF. Two writes of registers, with a tick between them or not: the pseudo-operations that write a period (spec/
30_encoding.md R87) and the torn period pair (spec/70_reset_and_hazards.md R230). -/

namespace Sys2Proof.Machine

/-! ### Both halves of a period -/

section
variable (b : Block) (lo hi : Byte)

theorem Block.tonePeriod_store_low_high (c : Fin 3) :
    (((b.store (regTonePeriodL c) lo).store (regTonePeriodH c) hi).tonePeriod c).toNat =
      hi.toNat % 16 * 256 + lo.toNat := by
  rw [Block.tonePeriod_store_high, Block.tonePeriod_store_low]
  omega

theorem Block.tonePeriod_store_high_low (c : Fin 3) :
    (((b.store (regTonePeriodH c) hi).store (regTonePeriodL c) lo).tonePeriod c).toNat =
      hi.toNat % 16 * 256 + lo.toNat := by
  rw [Block.tonePeriod_store_low, Block.tonePeriod_store_high]
  omega

theorem Block.envPeriod_store_low_high :
    ((b.store regEnvPeriodL lo).store regEnvPeriodH hi).envPeriod.toNat = hi.toNat * 256 + lo.toNat := by
  rw [Block.envPeriod_store_high, Block.envPeriod_store_low]
  omega

theorem Block.envPeriod_store_high_low :
    ((b.store regEnvPeriodH hi).store regEnvPeriodL lo).envPeriod.toNat = hi.toNat * 256 + lo.toNat := by
  rw [Block.envPeriod_store_low, Block.envPeriod_store_high]
  omega

end

/-! ### Runs of two writes -/

theorem regTonePeriodL_ne_shape (c : Fin 3) : regTonePeriodL c ≠ regEnvShape := by decide +revert

theorem regTonePeriodH_ne_shape (c : Fin 3) : regTonePeriodH c ≠ regEnvShape := by decide +revert

section
variable {k j : Fin 16} (hk : k ≠ regEnvShape) (hj : j ≠ regEnvShape) (v w : Byte) (s : State)
include hk hj

theorem execAll_write_write :
    execAll [Instr.ofWrite (indexByte k) v, Instr.ofWrite (indexByte j) w] s =
      .next ((s.writeReg k v).writeReg j w) := by
  simp only [execAll, exec_ofWrite_register hk, exec_ofWrite_register hj]

theorem execAll_write_write_tick :
    execAll [Instr.ofWrite (indexByte k) v, Instr.ofWrite (indexByte j) w, .tick] s =
      .next (((s.writeReg k v).writeReg j w).act Block.tick) := by
  simp only [execAll, exec_ofWrite_register hk, exec_ofWrite_register hj, exec_tick]

theorem execAll_write_tick_write :
    execAll [Instr.ofWrite (indexByte k) v, .tick, Instr.ofWrite (indexByte j) w] s =
      .next (((s.writeReg k v).act Block.tick).writeReg j w) := by
  simp only [execAll, exec_ofWrite_register hk, exec_ofWrite_register hj, exec_tick]

end

/-! ### The pseudo-operations (R87) -/

/-- Two pending register writes run in two steps, and leave every generator and every other register as it was. -/
theorem stepMany_write_write {k j : Fin 16} (hk : k ≠ regEnvShape) (hj : j ≠ regEnvShape) {v w : Byte} {s : State}
    (h : s.pending = [Op.wr (indexByte k) v, Op.wr (indexByte j) w].map encodeOp) :
    ∃ t, stepMany 2 s = .next t ∧ t.pending = [] ∧ t.block = (s.block.store k v).store j w ∧ GeneratorsKept s t ∧
      ∀ i : Fin 16, i.val ≠ k.val → i.val ≠ j.val → t.block.regs[i] = s.block.regs[i] := by
  refine ⟨_, (stepMany_eq_execAll (h.trans (List.append_nil _).symm)).trans (execAll_write_write hk hj v w _), rfl, rfl,
    ⟨rfl, rfl, rfl⟩, fun i hik hij => ?_⟩
  exact (Block.store_get_other _ j i w (Fin.ne_of_val_ne hij)).trans
    (Block.store_get_other _ k i v (Fin.ne_of_val_ne hik))

/-- `TICK n` expands to n ticks (R87). -/
theorem assemble_ticks (n : Nat) : assemble [.ticks n] = (List.replicate n Op.tick).map encodeOp := by
  simp only [assemble, AsmLine.expand, Schedule.words, Schedule.ops, List.flatMap_singleton, List.flatMap_replicate,
    Event.ops, List.flatten_replicate_singleton]

theorem stepMany_ticks {n : Nat} {s : State} (h : s.pending = assemble [.ticks n]) :
    stepMany n s = tickMany n { s with pending := [] } := by
  rw [assemble_ticks, ← List.append_nil (List.map _ _)] at h
  have hrun := stepMany_eq_execAll h
  rwa [List.length_replicate, List.map_replicate] at hrun

/-- Settles O48: the words of a period are two register writes, whose bytes are the halves of the period. -/
theorem pseudoOperationsExpand : Obligations.PseudoOperationsExpand := by
  refine ⟨fun c p s h => ?_, fun p s h => ?_, fun n s => stepMany_ticks⟩
  · obtain ⟨t, hrun, hpending, hblock, hkept, hregs⟩ :=
      stepMany_write_write (regTonePeriodL_ne_shape c) (regTonePeriodH_ne_shape c) h
    refine ⟨t, hrun, hpending, BitVec.eq_of_toNat_eq ?_, hkept, hregs⟩
    rw [hblock, Block.tonePeriod_store_low_high, BitVec.toNat_ofNat, BitVec.toNat_ofNat]
    omega
  · obtain ⟨t, hrun, hpending, hblock, hkept, hregs⟩ :=
      stepMany_write_write (k := regEnvPeriodL) (j := regEnvPeriodH) (by decide) (by decide) h
    refine ⟨t, hrun, hpending, BitVec.eq_of_toNat_eq ?_, hkept, hregs⟩
    rw [hblock, Block.envPeriod_store_low_high, BitVec.toNat_ofNat, BitVec.toNat_ofNat]
    omega

/-! ### The torn pair (R230) -/

/-- One step of the tone generator compares its count once with the period of the step (R132). -/
theorem countsTone_of_step {c : Fin 3} {s t : State} {tp : BitVec 12} {p : Nat} (hp : tp.toNat = p)
    (hstep : t.block.tone[c] = (s.block.tone[c]).step tp) : CountsTone c p s t := by
  rw [CountsTone, hstep, ← hp]
  exact ⟨Tone.step_toNat_of_ge _ _, Tone.step_of_lt _ _⟩

/-- One step of the envelope generator compares its count once with the period of the step (R146). -/
theorem countsEnvelope_of_step {s t : State} {ep : BitVec 16} {p : Nat} (hp : ep.toNat = p)
    (hstep : t.block.env = s.block.env.step ep) : CountsEnvelope p s t := by
  rw [CountsEnvelope, hstep, ← hp]
  refine ⟨Envelope.step_of_ge _ _, fun h => ?_⟩
  obtain ⟨hcounted, hcnt⟩ := Envelope.step_of_lt ep s.block.env h
  exact ⟨hcnt, (congrArg Envelope.level hcounted :)⟩

/-- Settles O49: a write leaves the generators alone, so the one tick compares the count of the start with the period
that the writes before it have left; a tick writes no register, so both writes together leave the new period. -/
theorem tornPeriodPair : Obligations.TornPeriodPair := by
  refine ⟨fun c lo hi s _ => ?_, fun lo hi s _ => ?_⟩
  · have hlow := regTonePeriodL_ne_shape c
    have hhigh := regTonePeriodH_ne_shape c
    refine ⟨⟨_, execAll_write_tick_write hlow hhigh lo hi s, ?_, ?_⟩,
      ⟨_, execAll_write_tick_write hhigh hlow hi lo s, ?_, ?_⟩,
      ⟨_, execAll_write_write_tick hlow hhigh lo hi s, ?_, ?_⟩⟩
    · exact countsTone_of_step (s.block.tonePeriod_store_low c lo) (Block.tick_tone _ c)
    · exact s.block.tonePeriod_store_low_high lo hi c
    · exact countsTone_of_step (s.block.tonePeriod_store_high c hi) (Block.tick_tone _ c)
    · exact s.block.tonePeriod_store_high_low lo hi c
    · exact countsTone_of_step (s.block.tonePeriod_store_low_high lo hi c) (Block.tick_tone _ c)
    · exact s.block.tonePeriod_store_low_high lo hi c
  · have hlow : regEnvPeriodL ≠ regEnvShape := by decide
    have hhigh : regEnvPeriodH ≠ regEnvShape := by decide
    refine ⟨⟨_, execAll_write_tick_write hlow hhigh lo hi s, ?_, ?_⟩,
      ⟨_, execAll_write_tick_write hhigh hlow hi lo s, ?_, ?_⟩,
      ⟨_, execAll_write_write_tick hlow hhigh lo hi s, ?_, ?_⟩⟩
    · exact countsEnvelope_of_step (s.block.envPeriod_store_low lo) rfl
    · exact s.block.envPeriod_store_low_high lo hi
    · exact countsEnvelope_of_step (s.block.envPeriod_store_high hi) rfl
    · exact s.block.envPeriod_store_high_low lo hi
    · exact countsEnvelope_of_step (s.block.envPeriod_store_low_high lo hi) rfl
    · exact s.block.envPeriod_store_low_high lo hi

end Sys2Proof.Machine
end

section
/-! PROOF. Two chips (spec/60_exceptions.md R212): a step of one is a step of the machine on its own state. -/

namespace Sys2Proof.Machine

theorem TurboSound.step_chip0 {d : TurboSound} {u : State} (h : Machine.step d.chip0 = .next u) :
    d.step .chip0 = .next { d with chip0 := u } := by
  rw [TurboSound.step, h]

theorem TurboSound.step_chip1 {d : TurboSound} {u : State} (h : Machine.step d.chip1 = .next u) :
    d.step .chip1 = .next { d with chip1 := u } := by
  rw [TurboSound.step, h]

theorem TurboSound.stepAll_cons_of_next {k : Chip} {d e : TurboSound} (h : d.step k = .next e) (ks : List Chip) :
    TurboSound.stepAll (k :: ks) d = TurboSound.stepAll ks e := by
  rw [TurboSound.stepAll, h]

/-- Settles O50: by induction on the interleaving, each of whose steps is one step of its chip. -/
theorem twoChipsAreIndependent : Obligations.TwoChipsAreIndependent := by
  intro ks
  induction ks with
  | nil => exact fun d => ⟨d.chip0, d.chip1, rfl, rfl, rfl⟩
  | cons k ks ih =>
    intro d
    cases k with
    | chip0 =>
      obtain ⟨u, hu⟩ := step_completes d.chip0
      obtain ⟨t0, t1, h0, h1, hall⟩ := ih { d with chip0 := u }
      exact ⟨t0, t1, by rw [List.count_cons_self, stepMany_succ_of_next hu, h0],
        by rw [List.count_cons_of_ne (by decide), h1],
        (TurboSound.stepAll_cons_of_next (TurboSound.step_chip0 hu) ks).trans hall⟩
    | chip1 =>
      obtain ⟨u, hu⟩ := step_completes d.chip1
      obtain ⟨t0, t1, h0, h1, hall⟩ := ih { d with chip1 := u }
      exact ⟨t0, t1, by rw [List.count_cons_of_ne (by decide), h0],
        by rw [List.count_cons_self, stepMany_succ_of_next hu, h1],
        (TurboSound.stepAll_cons_of_next (TurboSound.step_chip1 hu) ks).trans hall⟩

end Sys2Proof.Machine
end
